-- ==== Sys2Proof/Word.lean ====
section
/-! DEFINITION. The two word sizes of the block: the 32-bit word of the register port (spec R6, R62) and the byte of
the command fields and the byte arrays (R6, R80). -/

namespace Sys2Proof

/-- A word of the register port (R6: data width 32 bits). -/
abbrev Word := BitVec 32

/-- A byte (R7: 8 bits, unsigned). -/
abbrev Byte := BitVec 8

end Sys2Proof
end

