-- ==== Sys2Proof/Syntax.lean ====
section
/-! DEFINITION. The commands of the block: one constructor per row of spec/opcode_table.json (R84), each with the
immediate operands its row reads (R82). 32-bit operands are no part of a command word: they stand in `ARG0` and `ARG1`. -/

namespace Sys2Proof

/-- The four frame formats of R10. -/
inductive Format where
  | classicStd
  | classicExt
  | fdStd
  | fdExt
  deriving DecidableEq, Repr

/-- The two mailbox directions of R11. -/
inductive Direction where
  | receive
  | transmit
  deriving DecidableEq, Repr

/-- The field selector of `MBRD` (R82, R204). The fourth code has a name because a command word may carry it and
`MBRD` answers it with `PARAM` only after its other checks. -/
inductive Selector where
  | id
  | mask
  | ctrl
  | illegal
  deriving DecidableEq, Repr

/-- The thirty-nine commands of R84, in the table's order. -/
inductive Instr where
  | nop
  | frclr
  | setfmt (fmt : Format)
  | getfmt
  | setid
  | getid
  | setdlc (dlc : Byte)
  | getdlc
  | getsize
  | setflg (bit : Byte) (val : Bool)
  | getflg (bit : Byte)
  | getctl
  | psetb (off : Byte) (byte : Byte)
  | pgetb (off : Byte)
  | psetw (off : Byte)
  | pgetw (off : Byte)
  | setts
  | getsec
  | getnsec
  | setusr
  | getusr
  | setmrk
  | getmrk
  | d2s (dlc : Byte) (isFd : Bool)
  | s2d (size : Byte) (isFd : Bool)
  | mskid (fmt : Format)
  | enc
  | dec
  | wclr
  | wpush (byte : Byte)
  | wrd (off : Byte)
  | wwr (off : Byte) (byte : Byte)
  | getwlen
  | finit
  | frel
  | mbcfg (idx : Byte) (fmt : Format) (dir : Direction)
  | mbrd (idx : Byte) (sel : Selector)
  | matchId (fmt : Format) (dir : Direction)
  | matchf
  deriving DecidableEq, Repr

end Sys2Proof
end

