-- ==== Sys2Proof/Decode.lean ====
section
/-! DEFINITION. The command word: its fields, the decoder (total on every word, an undefined opcode rejected by name)
and the encoder (R80 to R86). -/

namespace Sys2Proof

/-! ### Codes of the operand forms -/

/-- The format code `fd ++ ext` (R10). -/
def Format.code : Format → BitVec 2
  | .classicStd => 0
  | .classicExt => 1
  | .fdStd => 2
  | .fdExt => 3

/-- The format of a 2-bit code: bit 1 is FD and bit 0 is extended (R10). -/
def Format.ofCode (c : BitVec 2) : Format :=
  match c.getLsbD 1, c.getLsbD 0 with
  | false, false => .classicStd
  | false, true => .classicExt
  | true, false => .fdStd
  | true, true => .fdExt

/-- `isExt(fmt) = fmt[0]` (R10). -/
def Format.isExt : Format → Bool
  | .classicStd => false
  | .classicExt => true
  | .fdStd => false
  | .fdExt => true

/-- `isFd(fmt) = fmt[1]` (R10). -/
def Format.isFd : Format → Bool
  | .classicStd => false
  | .classicExt => false
  | .fdStd => true
  | .fdExt => true

/-- The direction code: 0 Receive, 1 Transmit (R11). -/
def Direction.bit : Direction → Bool
  | .receive => false
  | .transmit => true

/-- The direction of a 1-bit code (R11). -/
def Direction.ofBit (b : Bool) : Direction :=
  if b then .transmit else .receive

/-- The selector code of `MBRD` (R82, R204). -/
def Selector.code : Selector → BitVec 2
  | .id => 0
  | .mask => 1
  | .ctrl => 2
  | .illegal => 3

/-- The selector of a 2-bit code (R204). -/
def Selector.ofCode (c : BitVec 2) : Selector :=
  match c.getLsbD 1, c.getLsbD 0 with
  | false, false => .id
  | false, true => .mask
  | true, false => .ctrl
  | true, true => .illegal

/-! ### Fields of a command word (R80) -/

/-- `OP = CMD[7:0]`. -/
def opField (w : Word) : Byte := w.extractLsb' 0 8

/-- `A = CMD[15:8]`. -/
def aField (w : Word) : Byte := w.extractLsb' 8 8

/-- `B = CMD[23:16]`. -/
def bField (w : Word) : Byte := w.extractLsb' 16 8

/-- `CMD = C ++ B ++ A ++ OP`. -/
def cmdFields (c b a op : Byte) : Word := c ++ b ++ a ++ op

/-- The word software writes for an opcode and its two immediates: `OP | (A << 8) | (B << 16)`, field `C` zero. -/
def cmdWord (op a b : Byte) : Word := cmdFields 0 b a op

/-- `B` = fmt: `B[1:0]`, the other bits ignored (R82). -/
def fmtForm (b : Byte) : Format := .ofCode (b.extractLsb' 0 2)

/-- `B` = fmtdir, direction part: `B[2]` (R82). -/
def dirForm (b : Byte) : Direction := .ofBit (b.getLsbD 2)

/-- `B` = isfd or val: `B[0]` (R82). -/
def bitForm (b : Byte) : Bool := b.getLsbD 0

/-- `B` = sel: `B[1:0]` (R82). -/
def selForm (b : Byte) : Selector := .ofCode (b.extractLsb' 0 2)

/-! ### Decoding -/

/-- Why a word is no command: its opcode has no row in R84. -/
inductive DecodeError where
  | undefinedOpcode (op : Byte)
  deriving DecidableEq, Repr

/-- The command of an opcode and its two immediates (R82, R84). -/
def decodeFields (op a b : Byte) : Except DecodeError Instr :=
  match op with
  | 0x00#8 => .ok .nop
  | 0x01#8 => .ok .frclr
  | 0x02#8 => .ok (.setfmt (fmtForm b))
  | 0x03#8 => .ok .getfmt
  | 0x04#8 => .ok .setid
  | 0x05#8 => .ok .getid
  | 0x06#8 => .ok (.setdlc a)
  | 0x07#8 => .ok .getdlc
  | 0x08#8 => .ok .getsize
  | 0x09#8 => .ok (.setflg a (bitForm b))
  | 0x0A#8 => .ok (.getflg a)
  | 0x0B#8 => .ok .getctl
  | 0x0C#8 => .ok (.psetb a b)
  | 0x0D#8 => .ok (.pgetb a)
  | 0x0E#8 => .ok (.psetw a)
  | 0x0F#8 => .ok (.pgetw a)
  | 0x10#8 => .ok .setts
  | 0x11#8 => .ok .getsec
  | 0x12#8 => .ok .getnsec
  | 0x13#8 => .ok .setusr
  | 0x14#8 => .ok .getusr
  | 0x15#8 => .ok .setmrk
  | 0x16#8 => .ok .getmrk
  | 0x20#8 => .ok (.d2s a (bitForm b))
  | 0x21#8 => .ok (.s2d a (bitForm b))
  | 0x22#8 => .ok (.mskid (fmtForm b))
  | 0x30#8 => .ok .enc
  | 0x31#8 => .ok .dec
  | 0x32#8 => .ok .wclr
  | 0x33#8 => .ok (.wpush a)
  | 0x34#8 => .ok (.wrd a)
  | 0x35#8 => .ok (.wwr a b)
  | 0x36#8 => .ok .getwlen
  | 0x40#8 => .ok .finit
  | 0x41#8 => .ok .frel
  | 0x42#8 => .ok (.mbcfg a (fmtForm b) (dirForm b))
  | 0x43#8 => .ok (.mbrd a (selForm b))
  | 0x44#8 => .ok (.matchId (fmtForm b) (dirForm b))
  | 0x45#8 => .ok .matchf
  | _ => .error (.undefinedOpcode op)

/-- Decode a command word: `OP` alone selects the command, `C` is never read (R81, R86). -/
def decode (w : Word) : Except DecodeError Instr :=
  decodeFields (opField w) (aField w) (bField w)

/-! ### Encoding -/

/-- `B` for the fmt form, ignored bits zero. -/
def fmtByte (f : Format) : Byte := f.code.setWidth 8

/-- `B` for the fmtdir form: `fmt OR (dir << 2)` (R89). -/
def fmtdirByte (f : Format) (d : Direction) : Byte :=
  f.code.setWidth 8 ||| (BitVec.ofBool d.bit).setWidth 8 <<< 2

/-- `B` for the isfd and val forms. -/
def bitByte (b : Bool) : Byte := (BitVec.ofBool b).setWidth 8

/-- `B` for the sel form. -/
def selByte (s : Selector) : Byte := s.code.setWidth 8

/-- The word of a command, reserved bits zero (R84, R86, R89). -/
def encode : Instr → Word
  | .nop => cmdWord 0x00 0 0
  | .frclr => cmdWord 0x01 0 0
  | .setfmt fmt => cmdWord 0x02 0 (fmtByte fmt)
  | .getfmt => cmdWord 0x03 0 0
  | .setid => cmdWord 0x04 0 0
  | .getid => cmdWord 0x05 0 0
  | .setdlc dlc => cmdWord 0x06 dlc 0
  | .getdlc => cmdWord 0x07 0 0
  | .getsize => cmdWord 0x08 0 0
  | .setflg bit val => cmdWord 0x09 bit (bitByte val)
  | .getflg bit => cmdWord 0x0A bit 0
  | .getctl => cmdWord 0x0B 0 0
  | .psetb off byte => cmdWord 0x0C off byte
  | .pgetb off => cmdWord 0x0D off 0
  | .psetw off => cmdWord 0x0E off 0
  | .pgetw off => cmdWord 0x0F off 0
  | .setts => cmdWord 0x10 0 0
  | .getsec => cmdWord 0x11 0 0
  | .getnsec => cmdWord 0x12 0 0
  | .setusr => cmdWord 0x13 0 0
  | .getusr => cmdWord 0x14 0 0
  | .setmrk => cmdWord 0x15 0 0
  | .getmrk => cmdWord 0x16 0 0
  | .d2s dlc isFd => cmdWord 0x20 dlc (bitByte isFd)
  | .s2d size isFd => cmdWord 0x21 size (bitByte isFd)
  | .mskid fmt => cmdWord 0x22 0 (fmtByte fmt)
  | .enc => cmdWord 0x30 0 0
  | .dec => cmdWord 0x31 0 0
  | .wclr => cmdWord 0x32 0 0
  | .wpush byte => cmdWord 0x33 byte 0
  | .wrd off => cmdWord 0x34 off 0
  | .wwr off byte => cmdWord 0x35 off byte
  | .getwlen => cmdWord 0x36 0 0
  | .finit => cmdWord 0x40 0 0
  | .frel => cmdWord 0x41 0 0
  | .mbcfg idx fmt dir => cmdWord 0x42 idx (fmtdirByte fmt dir)
  | .mbrd idx sel => cmdWord 0x43 idx (selByte sel)
  | .matchId fmt dir => cmdWord 0x44 0 (fmtdirByte fmt dir)
  | .matchf => cmdWord 0x45 0 0

/-- The command word that an opcode-table row's `nbits` bits stand for, the bits above them zero. A command is one
32-bit word on the port, so there is no byte order to lay it out in (R62). -/
def tableWord (nbits w : Nat) : Word := BitVec.ofNat 32 (w % 2 ^ nbits)

/-- What the decoder reads from an instruction whose bits are `w`. -/
def decodeTableWord (nbits w : Nat) : Option Instr := (decode (tableWord nbits w)).toOption

end Sys2Proof
end

