-- ==== Sys2Proof/Config.lean ====
section
/-! DEFINITION. The one parameter of the block that the spec leaves open: `N_MB`, the number of mailbox entries
(R5, R36, decision D16). It has no value in the model (log entry 4). -/

namespace Sys2Proof

/-- `N_MB - 1`, the highest legal mailbox index. Nothing in Lean can evaluate it, so a claim that mentions it holds for
every `N_MB` the spec allows (R5). -/
opaque Config.lastMailbox : Fin 256

/-- `N_MB`, an integer with `1 <= N_MB <= 256` (R5). -/
def Config.nMb : Nat := Config.lastMailbox.val + 1

end Sys2Proof
end

