-- ==== Sys2Proof/Machine/State.lean ====
section
/-! DEFINITION. The state of the block (spec/10_state.md), the accesses a host can make, the reasons a step could stop,
and the state after reset. -/

namespace Sys2Proof.Machine

/-- The completion codes of R301. `STATUS.code` holds no other value (R24). -/
inductive Code where
  | ok
  | badLength
  | badMagic
  | buffer
  | initMissing
  | initFail
  | param
  | notSupported
  deriving DecidableEq, Repr

/-- The four flags of the frame register that `SETFLG` selects (R130). -/
inductive CtlFlag where
  | remote
  | overrun
  | brs
  | esi
  deriving DecidableEq, Repr

/-- The frame register `FR` (R26). -/
structure Frame where
  id      : Word
  fmt     : Format
  remote  : Bool
  overrun : Bool
  brs     : Bool
  esi     : Bool
  dlc     : Byte
  payload : Vector Byte 64
  tsSec   : Word
  tsNsec  : Word
  user    : Word
  marker  : Word
  deriving DecidableEq, Repr

/-- One entry of the filter table (R31). -/
structure Mailbox where
  valid : Bool
  dir   : Direction
  fmt   : Format
  id    : Word
  mask  : Word
  deriving DecidableEq, Repr

/-- The eight slots of the register port, index 0 to 7 (R21, R60). -/
inductive Slot where
  | cmd
  | arg0
  | arg1
  | res
  | status
  | reserved5
  | reserved6
  | reserved7
  deriving DecidableEq, Repr

/-- What the outside world can do to the block (R72): write a slot, read a slot, pulse the reset input. -/
inductive HostAction where
  | write (slot : Slot) (value : Word)
  | read (slot : Slot)
  | reset
  deriving DecidableEq, Repr

/-- The state of the block, and (the last two fields, the model's own) of the host that drives it. -/
structure State where
  /-- `ARG0`, slot 1 (R22). -/
  arg0 : Word
  /-- `ARG1`, slot 2 (R22). -/
  arg1 : Word
  /-- `RES`, slot 3 (R23). -/
  res : Word
  /-- `STATUS.code`, slot 4 (R24). -/
  code : Code
  /-- The frame register (R26). -/
  fr : Frame
  /-- The wire buffer (R30). -/
  wb : Vector Byte 96
  /-- The wire byte counter `WLEN` (R30). -/
  wlen : Byte
  /-- The filter table, entry 0 first; its length is `N_MB` (R31, log entry 4). -/
  mb : List Mailbox
  /-- The `INIT` bit (R33). -/
  init : Bool
  /-- The host's actions that are still to come, the next one first (R20, R67; log entry 1). -/
  pending : List HostAction
  /-- The words returned to the host's reads so far, the oldest first (R88; log entry 3). -/
  reads : List Word
  deriving DecidableEq, Repr

/-- Why the machine could stop with a fault. The block has no fault, trap or exception: every failed command completes
and reports a code (R300, R307), so this type has no constructor (log entry 8). Safe: nothing is stopped. -/
inductive Fault where
  deriving DecidableEq, Repr

/-- Why a step could have no meaning. -/
inductive Refusal where
  /-- An instruction not modelled yet, by its mnemonic. Raised by no step: every command of R84 has its meaning. Safe. -/
  | notModelled (mnemonic : String)
  deriving DecidableEq, Repr

/-- `FR` with every field 0: the empty ClassicStd frame (R37). -/
def Frame.empty : Frame :=
  { id := 0, fmt := .classicStd, remote := false, overrun := false, brs := false, esi := false, dlc := 0,
    payload := Vector.replicate 64 0, tsSec := 0, tsNsec := 0, user := 0, marker := 0 }

/-- A mailbox entry with every field 0 (R37). -/
def Mailbox.empty : Mailbox :=
  { valid := false, dir := .receive, fmt := .classicStd, id := 0, mask := 0 }

/-- The state after reset of a block with `n` mailbox entries (R37, R400), and a host with nothing to do. -/
def State.resetWith (n : Nat) : State :=
  { arg0 := 0, arg1 := 0, res := 0, code := .ok, fr := Frame.empty, wb := Vector.replicate 96 0, wlen := 0,
    mb := List.replicate n Mailbox.empty, init := false, pending := [], reads := [] }

/-- The state after reset of the block with `N_MB` entries (R37, R400). -/
def State.reset : State := State.resetWith Config.nMb

end Sys2Proof.Machine
end

