-- ==== Sys2Proof/Machine/Ops.lean ====
section
/-! DEFINITION. The named operations the commands share: state updates, the ends of a command (`done`, `raise`), byte
arrays and byte order, identifier masks, DLC and size conversion, the frame's wire image. -/

namespace Sys2Proof.Machine

/-- The outcome of a command or a step. -/
abbrev Result := Host.Outcome State Fault Refusal

/-! ### State updates, one per register or group of registers -/

/-- `ARG0 <- v` (a host write, R64). -/
def State.setArg0 (s : State) (v : Word) : State := { s with arg0 := v }

/-- `ARG1 <- v` (a host write, R64). -/
def State.setArg1 (s : State) (v : Word) : State := { s with arg1 := v }

/-- `RES <- v`. -/
def State.setRes (s : State) (v : Word) : State := { s with res := v }

/-- `STATUS.code <- c`. -/
def State.setCode (s : State) (c : Code) : State := { s with code := c }

/-- Write the frame register. -/
def State.setFr (s : State) (f : Frame) : State := { s with fr := f }

/-- Write the wire buffer. -/
def State.setWb (s : State) (w : Vector Byte 96) : State := { s with wb := w }

/-- `WLEN <- n`. -/
def State.setWlen (s : State) (n : Byte) : State := { s with wlen := n }

/-- Write the filter table. -/
def State.setMb (s : State) (m : List Mailbox) : State := { s with mb := m }

/-- `INIT <- b`. -/
def State.setInit (s : State) (b : Bool) : State := { s with init := b }

/-- The host's actions still to come. -/
def State.setPending (s : State) (l : List HostAction) : State := { s with pending := l }

/-- Record a word that the port returned to the host (R88). -/
def State.recordRead (s : State) (v : Word) : State := { s with reads := s.reads ++ [v] }

/-! ### How a command ends (R8, R300) -/

/-- `done`: the command ends with `OK` (R8). -/
def done (s : State) : Result := .next (s.setCode .ok)

/-- `RES <- v; done`. -/
def doneWith (v : Word) (s : State) : Result := done (s.setRes v)

/-- `raise E`: the command ends with the code `E` and none of its other effects (R8, R302). This is the block's only
error mechanism: there is no trap to take or to return from (R300, R307). `s` is the state before the command. -/
def raise (e : Code) (s : State) : Result := .next (s.setCode e)

/-- A command word without a command: `NOT_SUPPORTED` and no other change (R85). -/
def illegalCommand (s : State) : Result := raise .notSupported s

/-! ### Completion codes and the STATUS word -/

/-- The number of a completion code (R301). -/
def Code.number : Code → Byte
  | .ok => 0x00
  | .badLength => 0x01
  | .badMagic => 0x02
  | .buffer => 0x03
  | .initMissing => 0x04
  | .initFail => 0x05
  | .param => 0x06
  | .notSupported => 0x07

/-- The word a read of `STATUS` returns: the code in bits 7:0, `INIT` in bit 16, every other bit 0 (R24). -/
def statusWord (s : State) : Word := 0#15 ++ BitVec.ofBool s.init ++ 0#8 ++ s.code.number

/-! ### Byte arrays and byte order (R9, R65, R66) -/

/-- Byte `k` of a byte array. The rules reach an array only with an offset they have checked (R8). -/
def byteAt {n : Nat} (v : Vector Byte n) (k : Nat) : Byte := v.getD k 0

/-- The array with byte `k` replaced. -/
def putByte {n : Nat} (v : Vector Byte n) (k : Nat) (b : Byte) : Vector Byte n := v.setIfInBounds k b

/-- `be32(b0, b1, b2, b3)` (R9). -/
def be32 (b0 b1 b2 b3 : Byte) : Word := b0 ++ b1 ++ b2 ++ b3

/-- Byte `k` of `bytes_be32(v)`: byte 0 is bits 31..24 and byte 3 is bits 7..0 (R9). -/
def be32Byte (v : Word) (k : Nat) : Byte := v.extractLsb' (8 * (3 - k)) 8

/-- The big-endian word at offset `k` of a byte array (R66, R173). -/
def wordAt {n : Nat} (v : Vector Byte n) (k : Nat) : Word :=
  be32 (byteAt v k) (byteAt v (k + 1)) (byteAt v (k + 2)) (byteAt v (k + 3))

/-- The array with the four bytes from offset `k` replaced by `bytes_be32(x)` (R66, R136). -/
def putWord {n : Nat} (v : Vector Byte n) (k : Nat) (x : Word) : Vector Byte n :=
  putByte (putByte (putByte (putByte v k (be32Byte x 0)) (k + 1) (be32Byte x 1)) (k + 2) (be32Byte x 2)) (k + 3)
    (be32Byte x 3)

/-! ### Identifier masks (R102) -/

/-- `idmask(fmt)`: 11 bits for the standard formats, 29 bits for the extended ones. -/
def idmask (f : Format) : Word := if f.isExt then 0x1FFFFFFF else 0x7FF

/-- `maskIdentifier(id, fmt)`. -/
def maskIdentifier (id : Word) (f : Format) : Word := id &&& idmask f

/-! ### DLC and payload size (R100, R101) -/

/-- `dlcToSize(dlc, isFd)`, a payload size of 0..64 (R100). -/
def dlcToSize (dlc : Byte) (isFd : Bool) : Nat :=
  if dlc.toNat ≤ 8 then dlc.toNat
  else if !isFd then 0
  else
    match dlc.toNat with
    | 9 => 12
    | 10 => 16
    | 11 => 20
    | 12 => 24
    | 13 => 32
    | 14 => 48
    | 15 => 64
    | _ => 0

/-- `sizeToDlc(size, isFd)`, a DLC of 0..15 (R101). -/
def sizeToDlc (size : Byte) (isFd : Bool) : Nat :=
  if !isFd then min size.toNat 8
  else if size.toNat ≤ 8 then size.toNat
  else if size.toNat ≤ 12 then 9
  else if size.toNat ≤ 16 then 10
  else if size.toNat ≤ 20 then 11
  else if size.toNat ≤ 24 then 12
  else if size.toNat ≤ 32 then 13
  else if size.toNat ≤ 48 then 14
  else 15

/-- The payload size of a frame: `dlcToSize(FR.dlc, isFd(FR.fmt))` (R29, R129). -/
def Frame.size (f : Frame) : Nat := dlcToSize f.dlc f.fmt.isFd

/-! ### Reset (R400) -/

/-- The block's reset: every piece of the block's state at its reset value, the number of entries kept. The host's
actions still to come, and what it has read, are the host's and stay. -/
def State.resetBlock (s : State) : State :=
  { State.resetWith s.mb.length with pending := s.pending, reads := s.reads }

end Sys2Proof.Machine
end

