-- ==== Sys2Proof/Machine/Operands.lean ====
section
/-! DEFINITION. The operand forms of R82 that a command checks when it runs, each with its check. The forms that need no
check are cut out of the word by Decode.lean. -/

namespace Sys2Proof.Machine

/-- `A` = off for `PSETB` and `PGETB`: legal when `A < 64` (R134, R135). -/
def payloadByteOffset (a : Byte) : Option Nat := if a.toNat < 64 then some a.toNat else none

/-- `A` = off for `PSETW` and `PGETW`: legal when `A <= 60`, no alignment asked (R62, R136, R137). -/
def payloadWordOffset (a : Byte) : Option Nat := if a.toNat ≤ 60 then some a.toNat else none

/-- `A` = off for `WRD` and `WWR`: legal when `A < 96` (R178, R179). -/
def wireOffset (a : Byte) : Option Nat := if a.toNat < 96 then some a.toNat else none

/-- `A` = idx for `MBCFG` and `MBRD`: legal when `A < N_MB` (R200). -/
def mailboxIndex (s : State) (a : Byte) : Option Nat := if a.toNat < s.mb.length then some a.toNat else none

/-- The 32-bit operand in `ARG0` (R22, R403: read when `CMD` is written). -/
def operand0 (s : State) : Word := s.arg0

/-- The 32-bit operand in `ARG1` (R22, R403). -/
def operand1 (s : State) : Word := s.arg1

end Sys2Proof.Machine
end

