-- ==== Sys2Proof/Machine/Conversion.lean ====
section
/-! DEFINITION. The conversion commands (spec/40_conversion.md). -/

namespace Sys2Proof.Machine

/-- `D2S dlc, isfd` (R103). -/
def execD2s (dlc : Byte) (isFd : Bool) (s : State) : Result :=
  doneWith (BitVec.ofNat 32 (dlcToSize dlc isFd)) s

/-- `S2D size, isfd` (R104). -/
def execS2d (size : Byte) (isFd : Bool) (s : State) : Result :=
  doneWith (BitVec.ofNat 32 (sizeToDlc size isFd)) s

/-- `MSKID id, fmt` (R105). -/
def execMskid (fmt : Format) (s : State) : Result := doneWith (maskIdentifier (operand0 s) fmt) s

end Sys2Proof.Machine
end

