-- ==== Sys2Proof/Machine/Filter.lean ====
section
/-! DEFINITION. The mailbox filter and the acceptance-mask matcher (spec/43_filter.md). -/

namespace Sys2Proof.Machine

/-- `clearAll`: every field of every entry 0, the number of entries kept (R200). -/
def clearAll (m : List Mailbox) : List Mailbox := m.map fun _ => Mailbox.empty

/-- The entry is hit by a query: valid, of the direction, of the whole 2-bit format, and equal under its mask (R205). -/
def Mailbox.hits (e : Mailbox) (rid : Word) (f : Format) (d : Direction) : Bool :=
  e.valid && decide (e.dir = d) && decide (e.fmt = f) && decide (rid &&& e.mask = e.id &&& e.mask)

/-- `match(rid, f, d)`: the lowest index of an entry that is hit (R205). -/
def matchIndex (m : List Mailbox) (rid : Word) (f : Format) (d : Direction) : Option Nat :=
  m.findIdx? fun e => e.hits rid f d

/-- `(h << 31) | zext_32(i[7:0])` (R206). -/
def matchWord : Option Nat → Word
  | none => 0
  | some i => 1#32 <<< 31 ||| (BitVec.ofNat 8 i).setWidth 32

/-- The control view of an entry, `zext_32(valid ++ dir ++ fmt)` (R204). -/
def Mailbox.ctrlWord (e : Mailbox) : Word :=
  (BitVec.ofBool e.valid ++ BitVec.ofBool e.dir.bit ++ e.fmt.code).setWidth 32

/-- The check that comes first in every filter command but `FINIT` (R200, R305). -/
def whenInit (s : State) (k : Result) : Result := if s.init then k else raise .initMissing s

/-- `FINIT` (R201). -/
def execFinit (s : State) : Result :=
  if s.init then raise .initFail s else done ((s.setMb (clearAll s.mb)).setInit true)

/-- `FREL` (R202). -/
def execFrel (s : State) : Result :=
  whenInit s (done ((s.setMb (clearAll s.mb)).setInit false))

/-- `MBCFG idx, id, mask, fmt, dir` (R203): the identifier is stored masked, the acceptance mask raw. -/
def execMbcfg (idx : Byte) (fmt : Format) (dir : Direction) (s : State) : Result :=
  whenInit s <|
    match mailboxIndex s idx with
    | none => raise .buffer s
    | some i =>
      done (s.setMb (s.mb.set i
        { valid := true, dir := dir, fmt := fmt, id := maskIdentifier (operand0 s) fmt, mask := operand1 s }))

/-- `MBRD idx, sel` (R204). -/
def execMbrd (idx : Byte) (sel : Selector) (s : State) : Result :=
  whenInit s <|
    match mailboxIndex s idx with
    | none => raise .buffer s
    | some i =>
      match sel with
      | .id => doneWith (s.mb.getD i Mailbox.empty).id s
      | .mask => doneWith (s.mb.getD i Mailbox.empty).mask s
      | .ctrl => doneWith (s.mb.getD i Mailbox.empty).ctrlWord s
      | .illegal => raise .param s

/-- `MATCH id, fmt, dir` (R206): the raw identifier is not masked. -/
def execMatch (fmt : Format) (dir : Direction) (s : State) : Result :=
  whenInit s (doneWith (matchWord (matchIndex s.mb (operand0 s) fmt dir)) s)

/-- `MATCHF` (R207): the frame register as a received frame. -/
def execMatchf (s : State) : Result :=
  whenInit s (doneWith (matchWord (matchIndex s.mb s.fr.id s.fr.fmt .receive)) s)

end Sys2Proof.Machine
end

