-- ==== Sys2Proof/Machine/Flags.lean ====
section
/-! DEFINITION. The frame's control flags: the control byte (R28), which flag a bit position names and when it is valid
(R130), and the change of format (R122). The block has no condition codes (R34). -/

namespace Sys2Proof.Machine

/-- The control byte of the four flags and a format (R28). -/
def ctlByte (f : Format) (remote overrun brs esi : Bool) : Byte :=
  BitVec.ofBool esi ++ BitVec.ofBool brs ++ 0#2 ++ BitVec.ofBool overrun ++ BitVec.ofBool remote ++
    BitVec.ofBool f.isFd ++ BitVec.ofBool f.isExt

/-- `ctl(FR)` (R28). -/
def ctl (f : Frame) : Byte := ctlByte f.fmt f.remote f.overrun f.brs f.esi

/-- `A` = bit for `SETFLG`: the flag at a settable position 2, 3, 6 or 7 (R130, R131). -/
def settableFlag (a : Byte) : Option CtlFlag :=
  match a with
  | 2#8 => some .remote
  | 3#8 => some .overrun
  | 6#8 => some .brs
  | 7#8 => some .esi
  | _ => none

/-- `A` = bit for `GETFLG`: the readable positions 0, 1, 2, 3, 6 and 7 (R132). -/
def readableBit (a : Byte) : Option Nat :=
  match a with
  | 0#8 => some 0
  | 1#8 => some 1
  | 2#8 => some 2
  | 3#8 => some 3
  | 6#8 => some 6
  | 7#8 => some 7
  | _ => none

/-- `flagValid(b, f)` (R130). -/
def flagValid (g : CtlFlag) (f : Format) : Bool :=
  match g with
  | .remote => !f.isFd
  | .overrun => true
  | .brs => f.isFd
  | .esi => f.isFd

/-- `field(b) <- v` (R130). -/
def Frame.putFlag (f : Frame) (g : CtlFlag) (v : Bool) : Frame :=
  match g with
  | .remote => { f with remote := v }
  | .overrun => { f with overrun := v }
  | .brs => { f with brs := v }
  | .esi => { f with esi := v }

/-- `reformat(f)`: the flags invalid in the new format are cleared and the identifier is masked to it (R122). -/
def Frame.reformat (fr : Frame) (f : Format) : Frame :=
  { fr with
    fmt := f
    id := maskIdentifier fr.id f
    brs := f.isFd && fr.brs
    esi := f.isFd && fr.esi
    remote := !f.isFd && fr.remote }

end Sys2Proof.Machine
end

