-- ==== Sys2Proof/Machine/FrameFields.lean ====
section
/-! DEFINITION. The frame-register commands (spec/41_frame_fields.md). -/

namespace Sys2Proof.Machine

/-- `FRCLR` (R121). -/
def execFrclr (s : State) : Result := done (s.setFr Frame.empty)

/-- `SETFMT fmt` (R123). -/
def execSetfmt (fmt : Format) (s : State) : Result := done (s.setFr (s.fr.reformat fmt))

/-- `GETFMT` (R124). -/
def execGetfmt (s : State) : Result := doneWith (s.fr.fmt.code.setWidth 32) s

/-- `SETID id` (R125): masked with the format held at the time of the write. -/
def execSetid (s : State) : Result :=
  done (s.setFr { s.fr with id := maskIdentifier (operand0 s) s.fr.fmt })

/-- `GETID` (R126): no mask on the read. -/
def execGetid (s : State) : Result := doneWith s.fr.id s

/-- `SETDLC dlc` (R127): no range check. -/
def execSetdlc (dlc : Byte) (s : State) : Result := done (s.setFr { s.fr with dlc := dlc })

/-- `GETDLC` (R128). -/
def execGetdlc (s : State) : Result := doneWith (s.fr.dlc.setWidth 32) s

/-- `GETSIZE` (R129). -/
def execGetsize (s : State) : Result := doneWith (BitVec.ofNat 32 s.fr.size) s

/-- `SETFLG bit, val` (R131): an invalid combination is a no-op with `OK` (R304). -/
def execSetflg (bit : Byte) (val : Bool) (s : State) : Result :=
  match settableFlag bit with
  | none => raise .param s
  | some g => if flagValid g s.fr.fmt then done (s.setFr (s.fr.putFlag g val)) else done s

/-- `GETFLG bit` (R132). -/
def execGetflg (bit : Byte) (s : State) : Result :=
  match readableBit bit with
  | none => raise .param s
  | some k => doneWith ((BitVec.ofBool ((ctl s.fr).getLsbD k)).setWidth 32) s

/-- `GETCTL` (R133). -/
def execGetctl (s : State) : Result := doneWith ((ctl s.fr).setWidth 32) s

/-- `PSETB off, byte` (R134). -/
def execPsetb (off byte : Byte) (s : State) : Result :=
  match payloadByteOffset off with
  | none => raise .param s
  | some k => done (s.setFr { s.fr with payload := putByte s.fr.payload k byte })

/-- `PGETB off` (R135). -/
def execPgetb (off : Byte) (s : State) : Result :=
  match payloadByteOffset off with
  | none => raise .param s
  | some k => doneWith ((byteAt s.fr.payload k).setWidth 32) s

/-- `PSETW off, word` (R136): all four bytes or none. -/
def execPsetw (off : Byte) (s : State) : Result :=
  match payloadWordOffset off with
  | none => raise .param s
  | some k => done (s.setFr { s.fr with payload := putWord s.fr.payload k (operand0 s) })

/-- `PGETW off` (R137). -/
def execPgetw (off : Byte) (s : State) : Result :=
  match payloadWordOffset off with
  | none => raise .param s
  | some k => doneWith (wordAt s.fr.payload k) s

/-- `SETTS sec, nsec` (R138): no range check. -/
def execSetts (s : State) : Result :=
  done (s.setFr { s.fr with tsSec := operand0 s, tsNsec := operand1 s })

/-- `GETSEC` (R139). -/
def execGetsec (s : State) : Result := doneWith s.fr.tsSec s

/-- `GETNSEC` (R140). -/
def execGetnsec (s : State) : Result := doneWith s.fr.tsNsec s

/-- `SETUSR v` (R141). -/
def execSetusr (s : State) : Result := done (s.setFr { s.fr with user := operand0 s })

/-- `GETUSR` (R142). -/
def execGetusr (s : State) : Result := doneWith s.fr.user s

/-- `SETMRK v` (R143). -/
def execSetmrk (s : State) : Result := done (s.setFr { s.fr with marker := operand0 s })

/-- `GETMRK` (R144). -/
def execGetmrk (s : State) : Result := doneWith s.fr.marker s

end Sys2Proof.Machine
end

