-- ==== Sys2Proof/Machine/Wire.lean ====
section
/-! DEFINITION. The wire image (R171 to R173) and the wire-image commands (spec/42_wire.md). -/

namespace Sys2Proof.Machine

/-- The first byte of the magic trailer, at offset 94 (R6, R171). -/
def magic0 : Byte := 0xCA

/-- The second byte of the magic trailer, at offset 95 (R6, R171). -/
def magic1 : Byte := 0x01

/-- Byte `k` of `ser(FR)`, row by row of the layout (R171, R172). -/
def serByte (f : Frame) (k : Nat) : Byte :=
  if k < 4 then be32Byte f.id k
  else if k = 4 then f.dlc
  else if k = 5 then ctl f
  else if k < 70 then (if k - 6 < f.size then byteAt f.payload (k - 6) else 0)
  else if k < 74 then be32Byte f.tsSec (k - 70)
  else if k < 78 then be32Byte f.tsNsec (k - 74)
  else if k < 82 then be32Byte f.user (k - 78)
  else if k < 86 then be32Byte f.marker (k - 82)
  else if k < 94 then 0
  else if k = 94 then magic0
  else magic1

/-- `ser(FR)`, the 96-byte wire image of a frame (R172). -/
def ser (f : Frame) : Vector Byte 96 := Vector.ofFn fun k : Fin 96 => serByte f k.val

/-- `des(w)`, the frame of a wire image that has passed both checks (R173). -/
def des (w : Vector Byte 96) : Frame :=
  let c := byteAt w 5
  let fd := c.getLsbD 1
  let f := Format.ofCode (c.extractLsb' 0 2)
  let dlc := byteAt w 4
  { id := maskIdentifier (wordAt w 0) f
    fmt := f
    remote := !fd && c.getLsbD 2
    overrun := c.getLsbD 3
    brs := fd && c.getLsbD 6
    esi := fd && c.getLsbD 7
    dlc := dlc
    payload := Vector.ofFn fun k : Fin 64 => if k.val < dlcToSize dlc fd then byteAt w (6 + k.val) else 0
    tsSec := wordAt w 70
    tsNsec := wordAt w 74
    user := wordAt w 78
    marker := wordAt w 82 }

/-- The count after one more byte: `min(WLEN + 1, 255)` (R177). -/
def nextCount (n : Byte) : Byte := BitVec.ofNat 8 (min (n.toNat + 1) 255)

/-- `ENC` (R174). -/
def execEnc (s : State) : Result := done ((s.setWb (ser s.fr)).setWlen 96)

/-- `DEC` (R175): the length is checked first, then the magic, and only then is a field read (R182). -/
def execDec (s : State) : Result :=
  if s.wlen ≠ 96 then raise .badLength s
  else if byteAt s.wb 94 ≠ magic0 ∨ byteAt s.wb 95 ≠ magic1 then raise .badMagic s
  else done (s.setFr (des s.wb))

/-- `WCLR` (R176): the bytes stay. -/
def execWclr (s : State) : Result := done (s.setWlen 0)

/-- `WPUSH byte` (R177): a byte past the 96th is counted and not stored. -/
def execWpush (byte : Byte) (s : State) : Result :=
  let w := if s.wlen.toNat < 96 then putByte s.wb s.wlen.toNat byte else s.wb
  done ((s.setWb w).setWlen (nextCount s.wlen))

/-- `WRD off` (R178). -/
def execWrd (off : Byte) (s : State) : Result :=
  match wireOffset off with
  | none => raise .param s
  | some k => doneWith ((byteAt s.wb k).setWidth 32) s

/-- `WWR off, byte` (R179): `WLEN` is not changed. -/
def execWwr (off byte : Byte) (s : State) : Result :=
  match wireOffset off with
  | none => raise .param s
  | some k => done (s.setWb (putByte s.wb k byte))

/-- `GETWLEN` (R180). -/
def execGetwlen (s : State) : Result := doneWith (s.wlen.setWidth 32) s

end Sys2Proof.Machine
end

