-- ==== Sys2Proof/Machine/Dispatch.lean ====
section
/-! DEFINITION. One arm per command, in the order of spec/opcode_table.json (R84). -/

namespace Sys2Proof.Machine

/-- What a command does to the state. -/
def exec (i : Instr) (s : State) : Host.Outcome State Fault Refusal :=
  match i with
  | .nop => Sys2Proof.Machine.execNop s
  | .frclr => Sys2Proof.Machine.execFrclr s
  | .setfmt fmt => Sys2Proof.Machine.execSetfmt fmt s
  | .getfmt => Sys2Proof.Machine.execGetfmt s
  | .setid => Sys2Proof.Machine.execSetid s
  | .getid => Sys2Proof.Machine.execGetid s
  | .setdlc dlc => Sys2Proof.Machine.execSetdlc dlc s
  | .getdlc => Sys2Proof.Machine.execGetdlc s
  | .getsize => Sys2Proof.Machine.execGetsize s
  | .setflg bit val => Sys2Proof.Machine.execSetflg bit val s
  | .getflg bit => Sys2Proof.Machine.execGetflg bit s
  | .getctl => Sys2Proof.Machine.execGetctl s
  | .psetb off byte => Sys2Proof.Machine.execPsetb off byte s
  | .pgetb off => Sys2Proof.Machine.execPgetb off s
  | .psetw off => Sys2Proof.Machine.execPsetw off s
  | .pgetw off => Sys2Proof.Machine.execPgetw off s
  | .setts => Sys2Proof.Machine.execSetts s
  | .getsec => Sys2Proof.Machine.execGetsec s
  | .getnsec => Sys2Proof.Machine.execGetnsec s
  | .setusr => Sys2Proof.Machine.execSetusr s
  | .getusr => Sys2Proof.Machine.execGetusr s
  | .setmrk => Sys2Proof.Machine.execSetmrk s
  | .getmrk => Sys2Proof.Machine.execGetmrk s
  | .d2s dlc isFd => Sys2Proof.Machine.execD2s dlc isFd s
  | .s2d size isFd => Sys2Proof.Machine.execS2d size isFd s
  | .mskid fmt => Sys2Proof.Machine.execMskid fmt s
  | .enc => Sys2Proof.Machine.execEnc s
  | .dec => Sys2Proof.Machine.execDec s
  | .wclr => Sys2Proof.Machine.execWclr s
  | .wpush byte => Sys2Proof.Machine.execWpush byte s
  | .wrd off => Sys2Proof.Machine.execWrd off s
  | .wwr off byte => Sys2Proof.Machine.execWwr off byte s
  | .getwlen => Sys2Proof.Machine.execGetwlen s
  | .finit => Sys2Proof.Machine.execFinit s
  | .frel => Sys2Proof.Machine.execFrel s
  | .mbcfg idx fmt dir => Sys2Proof.Machine.execMbcfg idx fmt dir s
  | .mbrd idx sel => Sys2Proof.Machine.execMbrd idx sel s
  | .matchId fmt dir => Sys2Proof.Machine.execMatch fmt dir s
  | .matchf => Sys2Proof.Machine.execMatchf s

end Sys2Proof.Machine
end

