-- ==== Sys2Proof/Machine/Port.lean ====
section
/-! DEFINITION. The register port (spec/20_memory.md): what a read of a slot returns, what a write to a slot does, and
how one action of the host acts on the block. -/

namespace Sys2Proof.Machine

/-- The slot of a 3-bit index (R21, R60). -/
def Slot.ofIndex (i : BitVec 3) : Slot :=
  match i with
  | 0#3 => .cmd
  | 1#3 => .arg0
  | 2#3 => .arg1
  | 3#3 => .res
  | 4#3 => .status
  | 5#3 => .reserved5
  | 6#3 => .reserved6
  | _ => .reserved7

/-- The word a read of a slot returns. `CMD` and the reserved slots read 0 (R21, R61). -/
def portRead (s : State) : Slot → Word
  | .cmd => 0
  | .arg0 => s.arg0
  | .arg1 => s.arg1
  | .res => s.res
  | .status => statusWord s
  | .reserved5 => 0
  | .reserved6 => 0
  | .reserved7 => 0

/-- A write to `CMD`: run the command the word encodes, or report `NOT_SUPPORTED` (R64, R81, R85). -/
def command (w : Word) (s : State) : Result :=
  match decode w with
  | .ok i => exec i s
  | .error _ => illegalCommand s

/-- A write of a word to a slot. A write to a read-only or a reserved slot is ignored (R61, R64). -/
def portWrite (slot : Slot) (v : Word) (s : State) : Result :=
  match slot with
  | .cmd => command v s
  | .arg0 => .next (s.setArg0 v)
  | .arg1 => .next (s.setArg1 v)
  | .res => .next s
  | .status => .next s
  | .reserved5 => .next s
  | .reserved6 => .next s
  | .reserved7 => .next s

/-- One action of the host, complete before the next one (R63, R72). -/
def perform (a : HostAction) (s : State) : Result :=
  match a with
  | .write slot v => portWrite slot v s
  | .read slot => .next (s.recordRead (portRead s slot))
  | .reset => .next s.resetBlock

/-- The host's next action, taken off the list of those to come and performed. A host that does nothing leaves the block
as it is (R20, R409; log entry 2). -/
def hostStep (s : State) : Result :=
  match s.pending with
  | [] => .next s
  | a :: rest => perform a (s.setPending rest)

/-- Put one action in front of the host's actions. -/
def State.pushAction (s : State) (a : HostAction) : State := s.setPending (a :: s.pending)

end Sys2Proof.Machine
end

