-- ==== Sys2Proof/Machine/Step.lean ====
section
/-! DEFINITION. One step of the machine: the host's next port access or reset (R20, R63, R67). -/

namespace Sys2Proof.Machine

/-- One step: the host's next action. -/
def step (s : State) : Host.Outcome State Fault Refusal := hostStep s

/-- The state in which the host's very next action is the write of a command word to `CMD` (log entry 5). The block
fetches nothing (R25, R70), so this is where a command comes from. -/
def State.withFetchWord (s : State) (nbits w : Nat) : State := s.pushAction (.write .cmd (tableWord nbits w))

end Sys2Proof.Machine
end

