-- ==== Sys2Proof/Machine/Assembler.lean ====
section
/-! DEFINITION. The assembler of R88 to R90: a source line, its expansion into port accesses, and the operands it
refuses. It is a tool of the host and no part of the block (decision D29); the text of a line is not modelled, only its
mnemonic and numbers (log entry 10). -/

namespace Sys2Proof.Machine

/-- The value of an operand symbol (R89). -/
def symbolValue (name : String) : Option Nat :=
  match name with
  | "CSTD" => some 0
  | "CEXT" => some 1
  | "FSTD" => some 2
  | "FEXT" => some 3
  | "RX" => some 0
  | "TX" => some 1
  | "EXT" => some 0
  | "FD" => some 1
  | "REMOTE" => some 2
  | "OVR" => some 3
  | "BRS" => some 6
  | "ESI" => some 7
  | "SEL_ID" => some 0
  | "SEL_MASK" => some 1
  | "SEL_CTRL" => some 2
  | _ => none

/-- A source line: a port primitive (R88) or a command with its operands in the order of R89. -/
inductive AsmLine where
  | wr (slot value : Nat)
  | rd (slot : Nat)
  | nop
  | frclr
  | setfmt (fmt : Nat)
  | getfmt
  | setid (id : Nat)
  | getid
  | setdlc (dlc : Nat)
  | getdlc
  | getsize
  | setflg (bit val : Nat)
  | getflg (bit : Nat)
  | getctl
  | psetb (off byte : Nat)
  | pgetb (off : Nat)
  | psetw (off word : Nat)
  | pgetw (off : Nat)
  | setts (sec nsec : Nat)
  | getsec
  | getnsec
  | setusr (v : Nat)
  | getusr
  | setmrk (v : Nat)
  | getmrk
  | d2s (dlc isFd : Nat)
  | s2d (size isFd : Nat)
  | mskid (id fmt : Nat)
  | enc
  | dec
  | wclr
  | wpush (byte : Nat)
  | wrd (off : Nat)
  | wwr (off byte : Nat)
  | getwlen
  | finit
  | frel
  | mbcfg (idx id mask fmt dir : Nat)
  | mbrd (idx sel : Nat)
  | matchId (id fmt dir : Nat)
  | matchf
  deriving DecidableEq, Repr

/-- The pseudo-instructions of R90. -/
inductive PseudoLine where
  | rdres
  | rdst
  | psetn (off b0 : Nat) (bs : List Nat)
  | wpushn (b0 : Nat) (bs : List Nat)
  | ldid (fmt id : Nat)
  deriving DecidableEq, Repr

/-- An operand of field `A` or `B`: at most 8 bits. -/
def byteOperand (n : Nat) : Option Byte := if n < 256 then some (BitVec.ofNat 8 n) else none

/-- A 32-bit operand or port value. -/
def wordOperand (n : Nat) : Option Word := if n < 2 ^ 32 then some (BitVec.ofNat 32 n) else none

/-- A format operand: at most 2 bits. -/
def fmtOperand (n : Nat) : Option Format := if n < 4 then some (Format.ofCode (BitVec.ofNat 2 n)) else none

/-- An isfd or val operand: at most 1 bit. -/
def bitOperand (n : Nat) : Option Bool := if n < 2 then some (n == 1) else none

/-- A direction operand: at most 1 bit. -/
def dirOperand (n : Nat) : Option Direction := (bitOperand n).map Direction.ofBit

/-- A slot number 0 to 7. -/
def slotOperand (n : Nat) : Option Slot := if n < 8 then some (Slot.ofIndex (BitVec.ofNat 3 n)) else none

/-- `WR CMD` with the word of a command. -/
def wrCmd (i : Instr) : HostAction := .write .cmd (encode i)

/-- The port accesses of a source line: `ARG0`, then `ARG1`, then `CMD`; none where an operand does not fit (R89). -/
def assemble : AsmLine → Option (List HostAction)
  | .wr slot value => do return [.write (← slotOperand slot) (← wordOperand value)]
  | .rd slot => do return [.read (← slotOperand slot)]
  | .nop => some [wrCmd .nop]
  | .frclr => some [wrCmd .frclr]
  | .setfmt fmt => do return [wrCmd (.setfmt (← fmtOperand fmt))]
  | .getfmt => some [wrCmd .getfmt]
  | .setid id => do return [.write .arg0 (← wordOperand id), wrCmd .setid]
  | .getid => some [wrCmd .getid]
  | .setdlc dlc => do return [wrCmd (.setdlc (← byteOperand dlc))]
  | .getdlc => some [wrCmd .getdlc]
  | .getsize => some [wrCmd .getsize]
  | .setflg bit val => do return [wrCmd (.setflg (← byteOperand bit) (← bitOperand val))]
  | .getflg bit => do return [wrCmd (.getflg (← byteOperand bit))]
  | .getctl => some [wrCmd .getctl]
  | .psetb off byte => do return [wrCmd (.psetb (← byteOperand off) (← byteOperand byte))]
  | .pgetb off => do return [wrCmd (.pgetb (← byteOperand off))]
  | .psetw off word => do return [.write .arg0 (← wordOperand word), wrCmd (.psetw (← byteOperand off))]
  | .pgetw off => do return [wrCmd (.pgetw (← byteOperand off))]
  | .setts sec nsec => do return [.write .arg0 (← wordOperand sec), .write .arg1 (← wordOperand nsec), wrCmd .setts]
  | .getsec => some [wrCmd .getsec]
  | .getnsec => some [wrCmd .getnsec]
  | .setusr v => do return [.write .arg0 (← wordOperand v), wrCmd .setusr]
  | .getusr => some [wrCmd .getusr]
  | .setmrk v => do return [.write .arg0 (← wordOperand v), wrCmd .setmrk]
  | .getmrk => some [wrCmd .getmrk]
  | .d2s dlc isFd => do return [wrCmd (.d2s (← byteOperand dlc) (← bitOperand isFd))]
  | .s2d size isFd => do return [wrCmd (.s2d (← byteOperand size) (← bitOperand isFd))]
  | .mskid id fmt => do return [.write .arg0 (← wordOperand id), wrCmd (.mskid (← fmtOperand fmt))]
  | .enc => some [wrCmd .enc]
  | .dec => some [wrCmd .dec]
  | .wclr => some [wrCmd .wclr]
  | .wpush byte => do return [wrCmd (.wpush (← byteOperand byte))]
  | .wrd off => do return [wrCmd (.wrd (← byteOperand off))]
  | .wwr off byte => do return [wrCmd (.wwr (← byteOperand off) (← byteOperand byte))]
  | .getwlen => some [wrCmd .getwlen]
  | .finit => some [wrCmd .finit]
  | .frel => some [wrCmd .frel]
  | .mbcfg idx id mask fmt dir => do
    return [.write .arg0 (← wordOperand id), .write .arg1 (← wordOperand mask),
      wrCmd (.mbcfg (← byteOperand idx) (← fmtOperand fmt) (← dirOperand dir))]
  | .mbrd idx sel => do return [.write .cmd (cmdWord 0x43 (← byteOperand idx) (← byteOperand sel))]
  | .matchId id fmt dir => do
    return [.write .arg0 (← wordOperand id), wrCmd (.matchId (← fmtOperand fmt) (← dirOperand dir))]
  | .matchf => some [wrCmd .matchf]

/-- The lines `PSETB off, b0 ; PSETB off+1, b1 ; …` (R90). -/
def psetLines (off : Nat) : List Nat → List AsmLine
  | [] => []
  | b :: bs => .psetb off b :: psetLines (off + 1) bs

/-- The lines a pseudo-instruction stands for (R90). -/
def PseudoLine.expand : PseudoLine → List AsmLine
  | .rdres => [.rd 3]
  | .rdst => [.rd 4]
  | .psetn off b0 bs => psetLines off (b0 :: bs)
  | .wpushn b0 bs => (b0 :: bs).map AsmLine.wpush
  | .ldid fmt id => [.setfmt fmt, .setid id]

/-- The port accesses of a program, none where the assembler refuses a line (R88, R89). -/
def assembleAll : List AsmLine → Option (List HostAction)
  | [] => some []
  | l :: ls => do return (← assemble l) ++ (← assembleAll ls)

end Sys2Proof.Machine
end

