-- ==== Sys2Proof/WellFormed.lean ====
section
/-! DEFINITION. Well-formed commands. Every value of the type `Instr` can be encoded (its operands have the widths of
R82), so what is left to check is that an immediate operand lies in the range its command's rule accepts: the commands
that fail this check are those whose rule answers `PARAM` (log entry 9). -/

namespace Sys2Proof

/-- The immediate operands lie in the ranges of R131, R132, R134 to R137, R178, R179 and R204. -/
def Instr.wellFormed : Instr → Bool
  | .setflg bit _ => [2, 3, 6, 7].contains bit.toNat
  | .getflg bit => [0, 1, 2, 3, 6, 7].contains bit.toNat
  | .psetb off _ => off.toNat < 64
  | .pgetb off => off.toNat < 64
  | .psetw off => off.toNat ≤ 60
  | .pgetw off => off.toNat ≤ 60
  | .wrd off => off.toNat < 96
  | .wwr off _ => off.toNat < 96
  | .mbrd _ sel => sel != .illegal
  | .nop => true
  | .frclr => true
  | .setfmt _ => true
  | .getfmt => true
  | .setid => true
  | .getid => true
  | .setdlc _ => true
  | .getdlc => true
  | .getsize => true
  | .getctl => true
  | .setts => true
  | .getsec => true
  | .getnsec => true
  | .setusr => true
  | .getusr => true
  | .setmrk => true
  | .getmrk => true
  | .d2s _ _ => true
  | .s2d _ _ => true
  | .mskid _ => true
  | .enc => true
  | .dec => true
  | .wclr => true
  | .wpush _ => true
  | .getwlen => true
  | .finit => true
  | .frel => true
  | .mbcfg _ _ _ => true
  | .matchId _ _ => true
  | .matchf => true

end Sys2Proof
end

