-- ==== Sys2Proof/Safety.lean ====
section
/-! DEFINITION. What counts as a safe run, the invariants of the spec, and the vocabulary of the claims: which bits of a
word a command reads, which commands write which state, which codes a command can report. -/

namespace Sys2Proof.Machine

/-- A run that never stops: after any number of steps there is a next state. -/
def SafeRun (s : State) : Prop := ∀ k, ∃ t, Sys2Proof.core.run k s = .next t

/-! ### Invariants -/

/-- The frame-register invariants I1, I2 and I3 of R27. -/
structure FrameInv (f : Frame) : Prop where
  /-- I1: `FR.id <= idmask(FR.fmt)`. -/
  id_masked : f.id ≤ idmask f.fmt
  /-- I2: an FD frame has no remote flag. -/
  fd_not_remote : f.fmt.isFd = true → f.remote = false
  /-- I3: a classic frame has neither the brs nor the esi flag. -/
  classic_no_brs_esi : f.fmt.isFd = false → f.brs = false ∧ f.esi = false

/-- The filter-table invariants M1 and M2 of R32 for one entry. -/
structure MailboxInv (e : Mailbox) : Prop where
  /-- M1: `MB[i].id <= idmask(MB[i].fmt)`. -/
  id_masked : e.id ≤ idmask e.fmt
  /-- M2: an entry that is not valid has every other field 0. -/
  invalid_empty : e.valid = false → e = Mailbox.empty

/-- The filter table is one the spec allows: `1 <= N_MB <= 256` (R5), M1 and M2 for every entry (R32), and every entry
zero while the table is not initialised (R401). -/
structure TableInv (s : State) : Prop where
  size_pos : 1 ≤ s.mb.length
  size_le : s.mb.length ≤ 256
  entries : ∀ e ∈ s.mb, MailboxInv e
  uninit_empty : s.init = false → ∀ e ∈ s.mb, e = Mailbox.empty

/-- The invariant of the machine. -/
structure BlockInv (s : State) : Prop where
  frame : FrameInv s.fr
  table : TableInv s

/-! ### Which bits of a command word are read (R82, R84) -/

/-- The bits of `B` that a command of this opcode reads; all of `B` for `PSETB` and `WWR`. -/
def usedB (op : Nat) : Byte :=
  if op = 0x0C ∨ op = 0x35 then 0xFF
  else if op = 0x02 ∨ op = 0x22 ∨ op = 0x43 then 0x03
  else if op = 0x42 ∨ op = 0x44 then 0x07
  else if op = 0x09 ∨ op = 0x20 ∨ op = 0x21 then 0x01
  else 0x00

/-- The opcodes whose commands read `A`, all eight bits of it. -/
def readsA (op : Nat) : Bool :=
  [0x06, 0x09, 0x0A, 0x0C, 0x0D, 0x0E, 0x0F, 0x20, 0x21, 0x33, 0x34, 0x35, 0x42, 0x43].contains op

/-- The bits of a command word that are not reserved (R86). -/
def usedBits (op : Byte) : Word :=
  0#8 ++ usedB op.toNat ++ (if readsA op.toNat then 0xFF#8 else 0#8) ++ 0xFF#8

/-- The undefined opcodes of R83. -/
def undefinedOp (op : Byte) : Prop :=
  (0x17 ≤ op.toNat ∧ op.toNat ≤ 0x1F) ∨ (0x23 ≤ op.toNat ∧ op.toNat ≤ 0x2F) ∨
    (0x37 ≤ op.toNat ∧ op.toNat ≤ 0x3F) ∨ 0x46 ≤ op.toNat

/-- The opcode of each command, from spec/opcode_table.json. -/
def tableOpcode : Instr → Nat
  | .nop => 0x00
  | .frclr => 0x01
  | .setfmt _ => 0x02
  | .getfmt => 0x03
  | .setid => 0x04
  | .getid => 0x05
  | .setdlc _ => 0x06
  | .getdlc => 0x07
  | .getsize => 0x08
  | .setflg _ _ => 0x09
  | .getflg _ => 0x0A
  | .getctl => 0x0B
  | .psetb _ _ => 0x0C
  | .pgetb _ => 0x0D
  | .psetw _ => 0x0E
  | .pgetw _ => 0x0F
  | .setts => 0x10
  | .getsec => 0x11
  | .getnsec => 0x12
  | .setusr => 0x13
  | .getusr => 0x14
  | .setmrk => 0x15
  | .getmrk => 0x16
  | .d2s _ _ => 0x20
  | .s2d _ _ => 0x21
  | .mskid _ => 0x22
  | .enc => 0x30
  | .dec => 0x31
  | .wclr => 0x32
  | .wpush _ => 0x33
  | .wrd _ => 0x34
  | .wwr _ _ => 0x35
  | .getwlen => 0x36
  | .finit => 0x40
  | .frel => 0x41
  | .mbcfg _ _ _ => 0x42
  | .mbrd _ _ => 0x43
  | .matchId _ _ => 0x44
  | .matchf => 0x45

/-! ### Which commands write which state -/

/-- The commands with an entry in the column "RES on OK" of R84. -/
def producesResult : Instr → Bool
  | .getfmt | .getid | .getdlc | .getsize | .getflg _ | .getctl | .pgetb _ | .pgetw _ | .getsec | .getnsec | .getusr
  | .getmrk | .d2s _ _ | .s2d _ _ | .mskid _ | .wrd _ | .getwlen | .mbrd _ _ | .matchId _ _ | .matchf => true
  | .nop | .frclr | .setfmt _ | .setid | .setdlc _ | .setflg _ _ | .psetb _ _ | .psetw _ | .setts | .setusr | .setmrk
  | .enc | .dec | .wclr | .wpush _ | .wwr _ _ | .finit | .frel | .mbcfg _ _ _ => false

/-- The commands that may write the frame register: the setters of R120 and `DEC` (R170). -/
def writesFrame : Instr → Bool
  | .frclr | .setfmt _ | .setid | .setdlc _ | .setflg _ _ | .psetb _ _ | .psetw _ | .setts | .setusr | .setmrk
  | .dec => true
  | .nop | .getfmt | .getid | .getdlc | .getsize | .getflg _ | .getctl | .pgetb _ | .pgetw _ | .getsec | .getnsec
  | .getusr | .getmrk | .d2s _ _ | .s2d _ _ | .mskid _ | .enc | .wclr | .wpush _ | .wrd _ | .wwr _ _ | .getwlen
  | .finit | .frel | .mbcfg _ _ _ | .mbrd _ _ | .matchId _ _ | .matchf => false

/-- The commands that may write the wire buffer (R170). -/
def writesWire : Instr → Bool
  | .enc | .wpush _ | .wwr _ _ => true
  | .nop | .frclr | .setfmt _ | .getfmt | .setid | .getid | .setdlc _ | .getdlc | .getsize | .setflg _ _ | .getflg _
  | .getctl | .psetb _ _ | .pgetb _ | .psetw _ | .pgetw _ | .setts | .getsec | .getnsec | .setusr | .getusr | .setmrk
  | .getmrk | .d2s _ _ | .s2d _ _ | .mskid _ | .dec | .wclr | .wrd _ | .getwlen | .finit | .frel | .mbcfg _ _ _
  | .mbrd _ _ | .matchId _ _ | .matchf => false

/-- The commands that may write the wire byte counter (R174, R176, R177). -/
def writesCount : Instr → Bool
  | .enc | .wclr | .wpush _ => true
  | .nop | .frclr | .setfmt _ | .getfmt | .setid | .getid | .setdlc _ | .getdlc | .getsize | .setflg _ _ | .getflg _
  | .getctl | .psetb _ _ | .pgetb _ | .psetw _ | .pgetw _ | .setts | .getsec | .getnsec | .setusr | .getusr | .setmrk
  | .getmrk | .d2s _ _ | .s2d _ _ | .mskid _ | .dec | .wrd _ | .wwr _ _ | .getwlen | .finit | .frel | .mbcfg _ _ _
  | .mbrd _ _ | .matchId _ _ | .matchf => false

/-- The commands that may write the filter table (R201 to R203). -/
def writesTable : Instr → Bool
  | .finit | .frel | .mbcfg _ _ _ => true
  | .nop | .frclr | .setfmt _ | .getfmt | .setid | .getid | .setdlc _ | .getdlc | .getsize | .setflg _ _ | .getflg _
  | .getctl | .psetb _ _ | .pgetb _ | .psetw _ | .pgetw _ | .setts | .getsec | .getnsec | .setusr | .getusr | .setmrk
  | .getmrk | .d2s _ _ | .s2d _ _ | .mskid _ | .enc | .dec | .wclr | .wpush _ | .wrd _ | .wwr _ _ | .getwlen
  | .mbrd _ _ | .matchId _ _ | .matchf => false

/-- The commands that may write `INIT` (R33). -/
def writesInit : Instr → Bool
  | .finit | .frel => true
  | .nop | .frclr | .setfmt _ | .getfmt | .setid | .getid | .setdlc _ | .getdlc | .getsize | .setflg _ _ | .getflg _
  | .getctl | .psetb _ _ | .pgetb _ | .psetw _ | .pgetw _ | .setts | .getsec | .getnsec | .setusr | .getusr | .setmrk
  | .getmrk | .d2s _ _ | .s2d _ _ | .mskid _ | .enc | .dec | .wclr | .wpush _ | .wrd _ | .wwr _ _ | .getwlen
  | .mbcfg _ _ _ | .mbrd _ _ | .matchId _ _ | .matchf => false

/-! ### When a command reports which code (R301, R305) -/

/-- The code a command reports in a state, cause by cause, in the order of R305. Every cause is written out here from
R301 and R305, not taken from the commands' meanings. -/
def reportedCode (i : Instr) (s : State) : Code :=
  match i with
  | .dec => if s.wlen.toNat ≠ 96 then .badLength
      else if s.wb[94] = 0xCA ∧ s.wb[95] = 0x01 then .ok else .badMagic
  | .finit => if s.init then .initFail else .ok
  | .frel => if s.init then .ok else .initMissing
  | .mbcfg idx _ _ => if !s.init then .initMissing else if s.mb.length ≤ idx.toNat then .buffer else .ok
  | .mbrd idx sel => if !s.init then .initMissing else if s.mb.length ≤ idx.toNat then .buffer
      else if sel = .illegal then .param else .ok
  | .matchId _ _ => if s.init then .ok else .initMissing
  | .matchf => if s.init then .ok else .initMissing
  | .setflg _ _ | .getflg _ | .psetb _ _ | .pgetb _ | .psetw _ | .pgetw _ | .wrd _ | .wwr _ _ =>
    if i.wellFormed then .ok else .param
  | .nop | .frclr | .setfmt _ | .getfmt | .setid | .getid | .setdlc _ | .getdlc | .getsize | .getctl | .setts | .getsec
  | .getnsec | .setusr | .getusr | .setmrk | .getmrk | .d2s _ _ | .s2d _ _ | .mskid _ | .enc | .wclr | .wpush _
  | .getwlen => .ok

/-! ### Tables and bytes written out for the claims -/

/-- The sizes of the FD DLC values 0 to 15, as the spec lists them (R100, spec/95_test_vectors.md S2). -/
def fdSizes : List Nat := [0, 1, 2, 3, 4, 5, 6, 7, 8, 12, 16, 20, 24, 32, 48, 64]

/-- The size of a DLC by the lists of R100: the classic identity for 0..8, the FD list for 0..15, 0 for the rest. -/
def listedSize (dlc : Nat) (isFd : Bool) : Nat :=
  if isFd then fdSizes.getD dlc 0 else if dlc ≤ 8 then dlc else 0

/-- The width of a format's identifier in bits (R1, R102). -/
def idWidth (f : Format) : Nat := if f = .classicExt ∨ f = .fdExt then 29 else 11

/-- Byte `k` of a 32-bit value in big-endian order, as a number (R9, R65). -/
def bigEndianByte (v : Word) (k : Nat) : Nat := v.toNat / 256 ^ (3 - k) % 256

/-- The control byte of a frame as a number (R28). -/
def controlNumber (f : Frame) : Nat :=
  (if f.fmt = .classicExt ∨ f.fmt = .fdExt then 1 else 0) + (if f.fmt = .fdStd ∨ f.fmt = .fdExt then 2 else 0) +
    (if f.remote then 4 else 0) + (if f.overrun then 8 else 0) + (if f.brs then 64 else 0) + (if f.esi then 128 else 0)

/-- The frame that R173 describes for a wire image, field by field. -/
structure IsDecoded (w : Vector Byte 96) (f : Frame) : Prop where
  format : f.fmt.code.toNat = (byteAt w 5).toNat % 4
  id : f.id.toNat = ((byteAt w 0).toNat * 2 ^ 24 + (byteAt w 1).toNat * 2 ^ 16 + (byteAt w 2).toNat * 2 ^ 8 +
    (byteAt w 3).toNat) % 2 ^ idWidth f.fmt
  remote : f.remote = ((byteAt w 5).getLsbD 2 && !(byteAt w 5).getLsbD 1)
  overrun : f.overrun = (byteAt w 5).getLsbD 3
  brs : f.brs = ((byteAt w 5).getLsbD 6 && (byteAt w 5).getLsbD 1)
  esi : f.esi = ((byteAt w 5).getLsbD 7 && (byteAt w 5).getLsbD 1)
  dlc : f.dlc = byteAt w 4
  payload : ∀ k < 64, byteAt f.payload k =
    if k < listedSize (byteAt w 4).toNat ((byteAt w 5).getLsbD 1) then byteAt w (6 + k) else 0
  tsSec : ∀ k < 4, bigEndianByte f.tsSec k = (byteAt w (70 + k)).toNat
  tsNsec : ∀ k < 4, bigEndianByte f.tsNsec k = (byteAt w (74 + k)).toNat
  user : ∀ k < 4, bigEndianByte f.user k = (byteAt w (78 + k)).toNat
  marker : ∀ k < 4, bigEndianByte f.marker k = (byteAt w (82 + k)).toNat

/-- The 96 bytes that R172 describes for a frame, row by row of the layout. -/
structure IsImage (f : Frame) (w : Vector Byte 96) : Prop where
  id : ∀ k < 4, (byteAt w k).toNat = bigEndianByte f.id k
  dlc : byteAt w 4 = f.dlc
  control : (byteAt w 5).toNat = controlNumber f
  payload : ∀ k < 64, byteAt w (6 + k) =
    if k < listedSize f.dlc.toNat f.fmt.isFd then byteAt f.payload k else 0
  tsSec : ∀ k < 4, (byteAt w (70 + k)).toNat = bigEndianByte f.tsSec k
  tsNsec : ∀ k < 4, (byteAt w (74 + k)).toNat = bigEndianByte f.tsNsec k
  user : ∀ k < 4, (byteAt w (78 + k)).toNat = bigEndianByte f.user k
  marker : ∀ k < 4, (byteAt w (82 + k)).toNat = bigEndianByte f.marker k
  reserved : ∀ k, 86 ≤ k → k < 94 → byteAt w k = 0
  magic : byteAt w 94 = 0xCA ∧ byteAt w 95 = 0x01

/-- An entry accepts a query, condition by condition of R205. -/
def Accepts (e : Mailbox) (rid : Word) (f : Format) (d : Direction) : Prop :=
  e.valid = true ∧ e.dir = d ∧ e.fmt = f ∧ rid &&& e.mask = e.id &&& e.mask

/-- The `RES` word of a match, from R205 and R206: `2^31` plus the lowest accepting index, or 0. -/
structure IsMatchResult (m : List Mailbox) (rid : Word) (f : Format) (d : Direction) (r : Word) : Prop where
  hit : ∀ i, ∀ hi : i < m.length, Accepts m[i] rid f d → (∀ j, ∀ hj : j < i, ¬ Accepts m[j] rid f d) →
    r.toNat = 2 ^ 31 + i % 256
  miss : (∀ e ∈ m, ¬ Accepts e rid f d) → r = 0

end Sys2Proof.Machine
end

