-- ==== Sys2Proof/Certificates/Slice0/Obligations.lean ====
section
/-! DEFINITION. The statements about the machine, each from the rules of spec/ that its docstring names. -/

open Sys2Proof Sys2Proof.Machine

/-! ### Reset and invariants -/

/-- R37: the value of every piece of state after reset. -/
def Obligations.ResetLeavesEveryFieldZero : Prop :=
  State.reset.arg0 = 0 ∧ State.reset.arg1 = 0 ∧ State.reset.res = 0 ∧ State.reset.code = .ok ∧
  State.reset.fr.id = 0 ∧ State.reset.fr.fmt = .classicStd ∧ State.reset.fr.remote = false ∧
  State.reset.fr.overrun = false ∧ State.reset.fr.brs = false ∧ State.reset.fr.esi = false ∧
  State.reset.fr.dlc = 0 ∧ (∀ k < 64, byteAt State.reset.fr.payload k = 0) ∧
  State.reset.fr.tsSec = 0 ∧ State.reset.fr.tsNsec = 0 ∧ State.reset.fr.user = 0 ∧ State.reset.fr.marker = 0 ∧
  (∀ k < 96, byteAt State.reset.wb k = 0) ∧ State.reset.wlen = 0 ∧ State.reset.mb.length = Config.nMb ∧
  (∀ e ∈ State.reset.mb, e.valid = false ∧ e.dir = .receive ∧ e.fmt = .classicStd ∧ e.id = 0 ∧ e.mask = 0) ∧
  State.reset.init = false ∧ FrameInv State.reset.fr ∧ ∀ e ∈ State.reset.mb, MailboxInv e

/-- R27, R32, R37, R401: the invariant holds after reset, for every `N_MB`. -/
def Obligations.ResetMeetsTheInvariant : Prop := BlockInv State.reset

/-- R27, R32, R401: every step, a command, another access or a reset, keeps the frame and filter-table invariants. -/
def Obligations.EveryStepKeepsTheInvariant : Prop :=
  ∀ (s t : State), BlockInv s → step s = .next t → BlockInv t

/-- R400: the reset input, between two accesses, sets every piece of state of the block to its value of R37 and keeps
`N_MB`. The last clause, `t.pending = rest ∧ t.reads = s.reads`, is no rule of the spec but the model's own choice (DESIGN
CHOICE, log entries 1 and 3): what the host still has to do and what it has read is the host's, and the reset input leaves
it alone. -/
def Obligations.ResetInputClearsTheWholeBlock : Prop :=
  ∀ (s : State) (rest : List HostAction), s.pending = .reset :: rest → ∃ t, step s = .next t ∧
    t.arg0 = 0 ∧ t.arg1 = 0 ∧ t.res = 0 ∧ statusWord t = 0 ∧
    t.fr.id = 0 ∧ t.fr.fmt = .classicStd ∧ t.fr.remote = false ∧ t.fr.overrun = false ∧ t.fr.brs = false ∧
    t.fr.esi = false ∧ t.fr.dlc = 0 ∧ (∀ k < 64, byteAt t.fr.payload k = 0) ∧ t.fr.tsSec = 0 ∧ t.fr.tsNsec = 0 ∧
    t.fr.user = 0 ∧ t.fr.marker = 0 ∧ (∀ k < 96, byteAt t.wb k = 0) ∧ t.wlen = 0 ∧ t.mb.length = s.mb.length ∧
    (∀ e ∈ t.mb, e.valid = false ∧ e.dir = .receive ∧ e.fmt = .classicStd ∧ e.id = 0 ∧ e.mask = 0) ∧ t.init = false ∧
    t.pending = rest ∧ t.reads = s.reads

/-- R401: each software clear reaches its part of the state only, and `FRCLR; WCLR`, with `FREL` after it when
`INIT = 1`, matches reset except for `WB`, `ARG0`, `ARG1` and `RES`. -/
def Obligations.SoftwareClearsComparedWithReset : Prop :=
  (∀ s : State, exec .frclr s = .next { s with fr := State.reset.fr, code := .ok }) ∧
  (∀ s : State, exec .wclr s = .next { s with wlen := 0, code := .ok }) ∧
  (∀ s : State, s.init = false → ∃ m, exec .finit s = .next { s with mb := m, init := true, code := .ok } ∧
    m.length = s.mb.length ∧ ∀ e ∈ m, e = Mailbox.empty) ∧
  (∀ s : State, s.init = true → ∃ m, exec .frel s = .next { s with mb := m, init := false, code := .ok } ∧
    m.length = s.mb.length ∧ ∀ e ∈ m, e = Mailbox.empty) ∧
  ∀ (s t u : State), BlockInv s → exec .frclr s = .next t → exec .wclr t = .next u →
    ∃ v, (if s.init then exec .frel u = .next v else v = u) ∧
      v = { s.resetBlock with wb := s.wb, arg0 := s.arg0, arg1 := s.arg1, res := s.res }

/-! ### Decoding, the port, steps and runs -/

/-- R80 to R84: decoding the word of a command gives the command back, with every operand at every value. -/
def Obligations.DecodeInvertsEncode : Prop := ∀ i : Instr, decode (encode i) = .ok i

/-- R86: two words that agree on the bits that are not reserved do the same in every state, and the encoder writes every
reserved bit as 0. -/
def Obligations.ReservedBitsAreIgnored : Prop :=
  (∀ (w w' : Word) (s : State), w &&& usedBits (opField w) = w' &&& usedBits (opField w) → command w s = command w' s) ∧
  ∀ i : Instr, encode i &&& ~~~usedBits (opField (encode i)) = 0

/-- R81, R83: a word decodes to a command exactly when its `OP` is not one of the undefined opcodes, and the command is that
of the table's row for the `OP`. -/
def Obligations.DecodingIsTotalAndByOpcode : Prop :=
  ∀ w : Word, ((∃ i, decode w = .ok i) ↔ ¬ undefinedOp (opField w)) ∧
    (undefinedOp (opField w) → decode w = .error (.undefinedOpcode (opField w))) ∧
    ∀ i, decode w = .ok i → tableOpcode i = (opField w).toNat

/-- R85: a word with an undefined opcode completes with `NOT_SUPPORTED` (0x07), changes no other state, and the next
access proceeds. -/
def Obligations.UndefinedOpcodeOnlyReportsNotSupported : Prop :=
  ∀ (s : State) (w : Word) (rest : List HostAction), s.pending = .write .cmd w :: rest → undefinedOp (opField w) →
    step s = .next { s with pending := rest, code := .notSupported } ∧ Code.notSupported.number = 0x07

/-- R80, R89, R91: words written out from the spec's table decode to the commands it names; a sanity check of the
decoder. -/
def Obligations.WorkedEncodingsDecode : Prop :=
  decode 0x00000000 = .ok .nop ∧ decode 0x00000004 = .ok .setid ∧ decode 0x00030002 = .ok (.setfmt .fdExt) ∧
  decode 0x0033020C = .ok (.psetb 2 0x33) ∧ decode 0x00010609 = .ok (.setflg 6 true) ∧
  decode 0x00010920 = .ok (.d2s 9 true) ∧ decode 0x00005E34 = .ok (.wrd 94) ∧
  decode 0x00070342 = .ok (.mbcfg 3 .fdExt .transmit) ∧ decode 0x00010044 = .ok (.matchId .classicExt .receive) ∧
  decode 0x00000017 = .error (.undefinedOpcode 0x17)

/-- R91: the worked source lines assemble to the port accesses the spec lists. -/
def Obligations.WorkedSourceLinesAssemble : Prop :=
  assemble (.setid 0x123) = some [.write .arg0 0x123, .write .cmd 0x00000004] ∧
  assemble (.setfmt 3) = some [.write .cmd 0x00030002] ∧
  assemble (.psetb 2 0x33) = some [.write .cmd 0x0033020C] ∧
  assemble (.setflg 6 1) = some [.write .cmd 0x00010609] ∧
  assemble (.d2s 9 1) = some [.write .cmd 0x00010920] ∧
  assemble (.wrd 94) = some [.write .cmd 0x00005E34] ∧
  assemble (.mbcfg 0 0x100 0x7FF 0 0) =
    some [.write .arg0 0x100, .write .arg1 0x7FF, .write .cmd 0x00000042] ∧
  assemble (.mbcfg 3 0x18DAF100 0x1FFFFF00 3 1) =
    some [.write .arg0 0x18DAF100, .write .arg1 0x1FFFFF00, .write .cmd 0x00070342] ∧
  assemble (.matchId 0x100 1 0) = some [.write .arg0 0x100, .write .cmd 0x00010044]

/-- R89: the accesses of an accepted command line are writes of `ARG0` and `ARG1` at most, and then one write of `CMD`
whose word decodes; so an assembled command is never `NOT_SUPPORTED`. -/
def Obligations.AssembledCommandsDecode : Prop :=
  ∀ (l : AsmLine) (acts : List HostAction), assemble l = some acts → (∀ p v, l ≠ .wr p v) → (∀ p, l ≠ .rd p) →
    ∃ args w i, acts = args ++ [.write .cmd w] ∧ decode w = .ok i ∧
      (args = [] ∨ (∃ v, args = [.write .arg0 v]) ∨ ∃ v v', args = [.write .arg0 v, .write .arg1 v'])

/-- R90: the accesses of `LDID fmt, id` leave the frame with the format and with the identifier masked to it, whatever the
format was before, and lose no other pending action. -/
def Obligations.LdidLoadsFormatThenIdentifier : Prop :=
  ∀ (s : State) (rest : List HostAction) (fmt id : Nat) (acts : List HostAction),
    assembleAll (PseudoLine.expand (.ldid fmt id)) = some acts → s.pending = acts ++ rest →
    ∃ t : State, Sys2Proof.core.run acts.length s = .next t ∧ t.pending = rest ∧ t.code = .ok ∧
      t.fr.fmt.code.toNat = fmt ∧ t.fr.id.toNat = id % 2 ^ idWidth t.fr.fmt ∧ t.fr.dlc = s.fr.dlc ∧
      t.fr.payload = s.fr.payload ∧ t.res = s.res ∧ t.wb = s.wb ∧ t.mb = s.mb

/-- R64, R81: a step whose next action is the write of a command word runs exactly the decoded command, on the state in
which only that action has been taken off the host's list. -/
def Obligations.StepRunsTheDecodedCommand : Prop :=
  ∀ (s : State) (w : Word) (i : Instr) (rest : List HostAction), s.pending = .write .cmd w :: rest → decode w = .ok i →
    step s = exec i { s with pending := rest }

/-- R61, R64: what each port access that is no command does. A read returns the slot's value and changes nothing else;
a write stores to `ARG0` or `ARG1`; a write to slots 3 to 7 is ignored; slot 0 and slots 5 to 7 read 0. That the host's
record `reads` takes the returned word is the model's own choice (DESIGN CHOICE, log entry 3). -/
def Obligations.PortAccessesFollowTheAddressMap : Prop :=
  ∀ (s : State) (rest : List HostAction),
    (∀ p, s.pending = .read p :: rest → ∃ v, step s = .next { s with pending := rest, reads := s.reads ++ [v] } ∧
      (p = .cmd → v = 0) ∧ (p = .arg0 → v = s.arg0) ∧ (p = .arg1 → v = s.arg1) ∧ (p = .res → v = s.res) ∧
      (p = .status → v = statusWord s) ∧ (p = .reserved5 → v = 0) ∧ (p = .reserved6 → v = 0) ∧
      (p = .reserved7 → v = 0)) ∧
    (∀ v, s.pending = .write .arg0 v :: rest → step s = .next { s with pending := rest, arg0 := v }) ∧
    (∀ v, s.pending = .write .arg1 v :: rest → step s = .next { s with pending := rest, arg1 := v }) ∧
    (∀ p v, p = .res ∨ p = .status ∨ p = .reserved5 ∨ p = .reserved6 ∨ p = .reserved7 →
      s.pending = .write p v :: rest → step s = .next { s with pending := rest })

/-- R24, R301: `STATUS` shows the completion code, numbered as R301 numbers it, in bits 7:0 and `INIT` in bit 16; bits
15:8 and 31:17 are 0. -/
def Obligations.StatusWordShowsCodeAndInit : Prop :=
  ∀ s : State, (statusWord s).toNat = (if s.init then 2 ^ 16 else 0) +
    (match s.code with
      | .ok => 0 | .badLength => 1 | .badMagic => 2 | .buffer => 3 | .initMissing => 4 | .initFail => 5 | .param => 6
      | .notSupported => 7)

/-- R20, R300, R409: a run never stops with a fault or a refusal; after one step per pending action the host has nothing
left to do, and from then on nothing changes. That a step with no pending action is a step at all, one that changes
nothing, is the model's own choice (log entry 2). -/
def Obligations.EveryRunCompletesAndComesToRest : Prop :=
  ∀ s : State, SafeRun s ∧ ∃ t : State, Sys2Proof.core.run s.pending.length s = .next t ∧ t.pending = [] ∧
    ∀ k, Sys2Proof.core.run k t = .next t

/-! ### Rules about all commands -/

/-- R305: every command completes in every state and reports one code, the first that applies in the order of R305;
`NOT_SUPPORTED` is decided on `OP` alone. -/
def Obligations.EveryCommandReportsTheFirstCodeThatApplies : Prop :=
  (∀ (i : Instr) (s : State), ∃ t, exec i s = .next t ∧ t.code = reportedCode i s) ∧
  ∀ (w : Word) (s : State), undefinedOp (opField w) → ∃ t, command w s = .next t ∧ t.code = .notSupported

/-- R302: a command that completes with an error leaves everything but the code as it was. -/
def Obligations.FailedCommandChangesOnlyTheCode : Prop :=
  ∀ (i : Instr) (s t : State), exec i s = .next t → t.code ≠ .ok → t = { s with code := t.code }

/-- R23, R84: a command without a result, and every command that completes with an error, leaves `RES` unchanged. -/
def Obligations.OnlyResultCommandsWriteRes : Prop :=
  ∀ (i : Instr) (s t : State), exec i s = .next t → producesResult i = false ∨ t.code ≠ .ok → t.res = s.res

/-- R22, R403: no command writes `ARG0` or `ARG1`, and none touches what the host has still to do or has read. -/
def Obligations.NoCommandWritesTheOperandRegisters : Prop :=
  ∀ (i : Instr) (s t : State), exec i s = .next t →
    t.arg0 = s.arg0 ∧ t.arg1 = s.arg1 ∧ t.pending = s.pending ∧ t.reads = s.reads

/-- R120, R170, R200: the frame, the wire buffer, the byte counter, the filter table and `INIT` each change only by the
commands that the spec names as their writers; no command changes the number of mailbox entries. -/
def Obligations.OnlyTheNamedCommandsWriteEachUnit : Prop :=
  ∀ (i : Instr) (s t : State), exec i s = .next t →
    (writesFrame i = false → t.fr = s.fr) ∧ (writesWire i = false → t.wb = s.wb) ∧
    (writesCount i = false → t.wlen = s.wlen) ∧ (writesTable i = false → t.mb = s.mb) ∧
    (writesInit i = false → t.init = s.init) ∧ t.mb.length = s.mb.length

/-- R120, R170: the codec does not see the filter. A command that is no filter command gives the same codec state, result
and code from two states that differ in the filter table and `INIT` only. -/
def Obligations.CodecCommandsIgnoreTheFilterTable : Prop :=
  ∀ (i : Instr) (s : State) (m : List Mailbox) (b : Bool) (t : State), tableOpcode i < 0x40 → exec i s = .next t →
    exec i { s with mb := m, init := b } = .next { t with mb := m, init := b }

/-- R33: `INIT` is 0 after reset, `FINIT` sets it and `FREL` clears it, `STATUS[16]` shows it, and no other access of the
host changes it but the reset input. -/
def Obligations.InitBitIsSetByFinitAndClearedByFrel : Prop :=
  State.reset.init = false ∧
  (∀ s : State, (statusWord s).getLsbD 16 = s.init) ∧
  (∀ s : State, ∃ t, exec .finit s = .next t ∧ t.init = true) ∧
  (∀ s : State, ∃ t, exec .frel s = .next t ∧ t.init = false) ∧
  ∀ s t : State, step s = .next t → t.init ≠ s.init →
    (∃ w rest, s.pending = .write .cmd w :: rest ∧ decode w = .ok .finit ∧ t.init = true) ∨
    (∃ w rest, s.pending = .write .cmd w :: rest ∧ decode w = .ok .frel ∧ t.init = false) ∨
    ∃ rest, s.pending = .reset :: rest ∧ t.init = false

/-- R402: after reset the table is not initialised; until `FINIT` every other filter command reports `INIT_MISSING` and
changes nothing else, and no command with `OP` 0x00 to 0x36 reports it or sets `INIT`; right after `FINIT` a legal entry
can be configured, and no query hits. -/
def Obligations.FilterCommandsNeedFinit : Prop :=
  State.reset.init = false ∧
  (∀ (i : Instr) (s t : State), s.init = false → exec i s = .next t →
    (0x41 ≤ tableOpcode i → t = { s with code := .initMissing }) ∧
    (tableOpcode i ≤ 0x36 → t.code ≠ .initMissing ∧ t.init = false)) ∧
  ∀ (s t : State) (a : Byte) (f f' : Format) (d d' : Direction), s.init = false → exec .finit s = .next t →
    (a.toNat < s.mb.length → ∃ u, exec (.mbcfg a f d) t = .next u ∧ u.code = .ok) ∧
    ∃ u, exec (.matchId f' d') t = .next u ∧ u.code = .ok ∧ u.res = 0

/-- R22, R67, R403: a word written to `ARG0` is what a later read of `ARG0` returns, whatever command words the host writes
in between. -/
def Obligations.OperandRegisterKeepsItsValueAcrossCommands : Prop :=
  ∀ (v : Word) (ws : List Word) (s : State) (rest : List HostAction),
    s.pending = .write .arg0 v :: ws.map (HostAction.write .cmd) ++ (.read .arg0 :: rest) →
    ∃ t : State, Sys2Proof.core.run (ws.length + 2) s = .next t ∧ t.pending = rest ∧ t.reads = s.reads ++ [v] ∧
      t.arg0 = v ∧ t.arg1 = s.arg1

/-! ### Control and conversion commands -/

/-- R230: every word with `OP` 0 is a `NOP`, which reports `OK` and changes nothing else. -/
def Obligations.NopOnlyReportsOk : Prop :=
  ∀ (c b a : Byte) (s : State), decode (cmdFields c b a 0x00) = .ok .nop ∧ exec .nop s = .next { s with code := .ok }

/-- R100, R103: `D2S` gives the size the spec lists for the DLC. -/
def Obligations.DlcToSizeCommandGivesTheListedSize : Prop :=
  ∀ (c b a : Byte) (s : State), decode (cmdFields c b a 0x20) = .ok (.d2s a (b.getLsbD 0)) ∧
    ∀ fd, ∃ r : Word, exec (.d2s a fd) s = .next { s with res := r, code := .ok } ∧
      r.toNat = listedSize a.toNat fd

/-- R101, R104: `S2D` gives the size clamped to 8 when classic, and when FD the lowest DLC whose size is not below the
given one, 15 where there is none. -/
def Obligations.SizeToDlcCommandGivesTheSmallestFit : Prop :=
  ∀ (c b a : Byte) (s : State), decode (cmdFields c b a 0x21) = .ok (.s2d a (b.getLsbD 0)) ∧
    (∃ r : Word, exec (.s2d a false) s = .next { s with res := r, code := .ok } ∧ r.toNat = min a.toNat 8) ∧
    ∃ r : Word, exec (.s2d a true) s = .next { s with res := r, code := .ok } ∧
      (a.toNat ≤ 64 → r.toNat ≤ 15 ∧ a.toNat ≤ fdSizes.getD r.toNat 0 ∧
        ∀ d < r.toNat, fdSizes.getD d 0 < a.toNat) ∧
      (64 < a.toNat → r.toNat = 15)

/-- R106: the five laws of the conversion functions. -/
def Obligations.ConversionLaws : Prop :=
  (∀ d : Byte, d.toNat ≤ 8 → sizeToDlc (BitVec.ofNat 8 (dlcToSize d false)) false = d.toNat) ∧
  (∀ d : Byte, d.toNat ≤ 15 → sizeToDlc (BitVec.ofNat 8 (dlcToSize d true)) true = d.toNat) ∧
  (∀ n : Byte, n.toNat ≤ 64 →
    min n.toNat 8 ≤ dlcToSize (BitVec.ofNat 8 (sizeToDlc n false)) false ∧
    n.toNat ≤ dlcToSize (BitVec.ofNat 8 (sizeToDlc n true)) true) ∧
  (∀ id f, (f.isExt = false → maskIdentifier id f ≤ 0x7FF) ∧ (f.isExt = true → maskIdentifier id f ≤ 0x1FFFFFFF)) ∧
  ∀ id f, maskIdentifier (maskIdentifier id f) f = maskIdentifier id f

/-- R102, R105: `MSKID` keeps the low 11 or 29 bits of `ARG0`; the FD bit plays no part. -/
def Obligations.MaskIdCommandKeepsTheLowBits : Prop :=
  ∀ (c b a : Byte) (s : State), decode (cmdFields c b a 0x22) = .ok (.mskid (.ofCode (b.extractLsb' 0 2))) ∧
    ∀ f, ∃ r : Word, exec (.mskid f) s = .next { s with res := r, code := .ok } ∧
      r.toNat = s.arg0.toNat % 2 ^ idWidth f

/-! ### Frame-register commands -/

/-- R121: `FRCLR` sets every field of the frame register to 0 and touches nothing else but the code. -/
def Obligations.FrclrEmptiesTheFrame : Prop :=
  ∀ (c b a : Byte) (s : State), decode (cmdFields c b a 0x01) = .ok .frclr ∧
    ∃ f, exec .frclr s = .next { s with fr := f, code := .ok } ∧
      f.id = 0 ∧ f.fmt = .classicStd ∧ f.remote = false ∧ f.overrun = false ∧ f.brs = false ∧ f.esi = false ∧
      f.dlc = 0 ∧ (∀ k < 64, byteAt f.payload k = 0) ∧ f.tsSec = 0 ∧ f.tsNsec = 0 ∧ f.user = 0 ∧ f.marker = 0

/-- R122, R123: `SETFMT` masks the identifier to the new format, clears the flags that are invalid in it, and keeps every
other field; setting the current format again changes nothing where the frame invariants hold. -/
def Obligations.SetfmtReformatsTheFrame : Prop :=
  (∀ c b a : Byte, decode (cmdFields c b a 0x02) = .ok (.setfmt (.ofCode (b.extractLsb' 0 2)))) ∧
  (∀ (f : Format) (s : State), ∃ id : Word, id.toNat = s.fr.id.toNat % 2 ^ idWidth f ∧
    exec (.setfmt f) s = .next { s with
      fr := { s.fr with
        fmt := f
        id := id
        remote := if f = .fdStd ∨ f = .fdExt then false else s.fr.remote
        brs := if f = .fdStd ∨ f = .fdExt then s.fr.brs else false
        esi := if f = .fdStd ∨ f = .fdExt then s.fr.esi else false }
      code := .ok }) ∧
  ∀ s : State, FrameInv s.fr → exec (.setfmt s.fr.fmt) s = .next { s with code := .ok }

/-- R124, R126, R128, R139, R140, R142, R144, R180: the plain getters return their field, unmasked and zero-extended, and
change nothing but `RES` and the code. -/
def Obligations.PlainGettersReturnTheirField : Prop :=
  ∀ (c b a : Byte) (s : State),
    (decode (cmdFields c b a 0x03) = .ok .getfmt ∧ ∃ r : Word, exec .getfmt s = .next { s with res := r, code := .ok } ∧
      r.toNat = match s.fr.fmt with
        | .classicStd => 0 | .classicExt => 1 | .fdStd => 2 | .fdExt => 3) ∧
    (decode (cmdFields c b a 0x05) = .ok .getid ∧ exec .getid s = .next { s with res := s.fr.id, code := .ok }) ∧
    (decode (cmdFields c b a 0x07) = .ok .getdlc ∧ ∃ r : Word, exec .getdlc s = .next { s with res := r, code := .ok } ∧
      r.toNat = s.fr.dlc.toNat) ∧
    (decode (cmdFields c b a 0x11) = .ok .getsec ∧ exec .getsec s = .next { s with res := s.fr.tsSec, code := .ok }) ∧
    (decode (cmdFields c b a 0x12) = .ok .getnsec ∧
      exec .getnsec s = .next { s with res := s.fr.tsNsec, code := .ok }) ∧
    (decode (cmdFields c b a 0x14) = .ok .getusr ∧ exec .getusr s = .next { s with res := s.fr.user, code := .ok }) ∧
    (decode (cmdFields c b a 0x16) = .ok .getmrk ∧ exec .getmrk s = .next { s with res := s.fr.marker, code := .ok }) ∧
    (decode (cmdFields c b a 0x36) = .ok .getwlen ∧
      ∃ r : Word, exec .getwlen s = .next { s with res := r, code := .ok } ∧ r.toNat = s.wlen.toNat)

/-- R127, R138, R141, R143: the plain setters store their operand unchecked and change nothing but their field and the
code. -/
def Obligations.PlainSettersStoreTheirOperand : Prop :=
  ∀ (c b a : Byte) (s : State),
    (decode (cmdFields c b a 0x06) = .ok (.setdlc a) ∧
      exec (.setdlc a) s = .next { s with fr := { s.fr with dlc := a }, code := .ok }) ∧
    (decode (cmdFields c b a 0x10) = .ok .setts ∧
      exec .setts s = .next { s with fr := { s.fr with tsSec := s.arg0, tsNsec := s.arg1 }, code := .ok }) ∧
    (decode (cmdFields c b a 0x13) = .ok .setusr ∧
      exec .setusr s = .next { s with fr := { s.fr with user := s.arg0 }, code := .ok }) ∧
    (decode (cmdFields c b a 0x15) = .ok .setmrk ∧
      exec .setmrk s = .next { s with fr := { s.fr with marker := s.arg0 }, code := .ok })

/-- R125: `SETID` stores the low 11 or 29 bits of `ARG0`, by the format held at the time of the write. -/
def Obligations.SetidStoresTheMaskedIdentifier : Prop :=
  ∀ (c b a : Byte) (s : State), decode (cmdFields c b a 0x04) = .ok .setid ∧
    ∃ id : Word, exec .setid s = .next { s with fr := { s.fr with id := id }, code := .ok } ∧
      id.toNat = s.arg0.toNat % 2 ^ idWidth s.fr.fmt

/-- R129: `GETSIZE` gives the size the spec lists for the frame's DLC and format. -/
def Obligations.GetsizeGivesTheListedSize : Prop :=
  ∀ (c b a : Byte) (s : State), decode (cmdFields c b a 0x08) = .ok .getsize ∧
    ∃ r : Word, exec .getsize s = .next { s with res := r, code := .ok } ∧
      r.toNat = listedSize s.fr.dlc.toNat (decide (s.fr.fmt = .fdStd ∨ s.fr.fmt = .fdExt))

/-- R130, R131, R304: `SETFLG` writes the flag at position 2, 3, 6 or 7 where the format allows it, does nothing with `OK`
where it does not, and reports `PARAM` at every other position. -/
def Obligations.SetflgWritesOnlyValidFlags : Prop :=
  (∀ c b a : Byte, decode (cmdFields c b a 0x09) = .ok (.setflg a (b.getLsbD 0))) ∧
  ∀ (v : Bool) (s : State),
    exec (.setflg 2 v) s = .next { s with
      fr := { s.fr with remote := if s.fr.fmt.isFd then s.fr.remote else v }, code := .ok } ∧
    exec (.setflg 3 v) s = .next { s with fr := { s.fr with overrun := v }, code := .ok } ∧
    exec (.setflg 6 v) s = .next { s with
      fr := { s.fr with brs := if s.fr.fmt.isFd then v else s.fr.brs }, code := .ok } ∧
    exec (.setflg 7 v) s = .next { s with
      fr := { s.fr with esi := if s.fr.fmt.isFd then v else s.fr.esi }, code := .ok } ∧
    ∀ a : Byte, a.toNat ∉ [2, 3, 6, 7] → exec (.setflg a v) s = .next { s with code := .param }

/-- R28, R132, R133: `GETCTL` gives the control byte with each flag at its bit, and `GETFLG` one of its bits 0, 1, 2, 3, 6
and 7; every other position gives `PARAM` and leaves `RES` as it was. -/
def Obligations.ControlByteReads : Prop :=
  ∀ (c b a : Byte) (s : State),
    (decode (cmdFields c b a 0x0B) = .ok .getctl ∧
      ∃ r : Word, exec .getctl s = .next { s with res := r, code := .ok } ∧ r.toNat = controlNumber s.fr) ∧
    decode (cmdFields c b a 0x0A) = .ok (.getflg a) ∧
    (a.toNat ∈ [0, 1, 2, 3, 6, 7] → ∃ r : Word, exec (.getflg a) s = .next { s with res := r, code := .ok } ∧
      r.toNat = controlNumber s.fr / 2 ^ a.toNat % 2) ∧
    (a.toNat ∉ [0, 1, 2, 3, 6, 7] → exec (.getflg a) s = .next { s with code := .param })

/-- R134, R135: `PSETB` writes the byte at its offset and no other byte, `PGETB` reads it; an offset of 64 or more gives
`PARAM` and nothing else. -/
def Obligations.PayloadByteAccess : Prop :=
  ∀ (c b a : Byte) (s : State),
    decode (cmdFields c b a 0x0C) = .ok (.psetb a b) ∧ decode (cmdFields c b a 0x0D) = .ok (.pgetb a) ∧
    (a.toNat < 64 →
      (∃ p, exec (.psetb a b) s = .next { s with fr := { s.fr with payload := p }, code := .ok } ∧
        ∀ k, byteAt p k = if k = a.toNat then b else byteAt s.fr.payload k) ∧
      ∃ r : Word, exec (.pgetb a) s = .next { s with res := r, code := .ok } ∧
        r.toNat = (byteAt s.fr.payload a.toNat).toNat) ∧
    (64 ≤ a.toNat →
      exec (.psetb a b) s = .next { s with code := .param } ∧ exec (.pgetb a) s = .next { s with code := .param })

/-- R136, R137: `PSETW` writes `ARG0` big-endian to the four bytes at its offset and no other byte, `PGETW` reads them
back; an offset above 60 gives `PARAM` and nothing else. -/
def Obligations.PayloadWordAccess : Prop :=
  ∀ (c b a : Byte) (s : State),
    decode (cmdFields c b a 0x0E) = .ok (.psetw a) ∧ decode (cmdFields c b a 0x0F) = .ok (.pgetw a) ∧
    (a.toNat ≤ 60 →
      (∃ p, exec (.psetw a) s = .next { s with fr := { s.fr with payload := p }, code := .ok } ∧
        (∀ j < 4, (byteAt p (a.toNat + j)).toNat = bigEndianByte s.arg0 j) ∧
        ∀ k, k < a.toNat ∨ a.toNat + 4 ≤ k → byteAt p k = byteAt s.fr.payload k) ∧
      ∃ r : Word, exec (.pgetw a) s = .next { s with res := r, code := .ok } ∧
        ∀ j < 4, bigEndianByte r j = (byteAt s.fr.payload (a.toNat + j)).toNat) ∧
    (60 < a.toNat →
      exec (.psetw a) s = .next { s with code := .param } ∧ exec (.pgetw a) s = .next { s with code := .param })

/-- R66: after `PSETW A`, `PGETW A` gives the word back and `PGETB` of each of its four offsets gives the word's byte in
big-endian order. -/
def Obligations.MixedWidthAccessIsBigEndian : Prop :=
  ∀ (a : Byte) (s t : State), a.toNat ≤ 60 → exec (.psetw a) s = .next t →
    (∃ u, exec (.pgetw a) t = .next u ∧ u.code = .ok ∧ u.res = s.arg0) ∧
    ∀ j < 4, ∃ u, exec (.pgetb (a + BitVec.ofNat 8 j)) t = .next u ∧ u.code = .ok ∧
      u.res.toNat = bigEndianByte s.arg0 j

/-- R405: the two orders of a format and an identifier differ: the format first keeps the low bits of the new width, the
identifier first keeps only the bits that both widths have. -/
def Obligations.FormatBeforeIdentifier : Prop :=
  ∀ (f : Format) (s : State),
    (∃ t u, exec (.setfmt f) s = .next t ∧ exec .setid t = .next u ∧
      u.fr.id.toNat = s.arg0.toNat % 2 ^ idWidth f) ∧
    ∃ t u, exec .setid s = .next t ∧ exec (.setfmt f) t = .next u ∧
      u.fr.id.toNat = s.arg0.toNat % 2 ^ min (idWidth s.fr.fmt) (idWidth f)

/-- R406: a flag set after the switch to its format is held, a flag set before it is not stored, and a format change
clears the flags invalid in the new format. -/
def Obligations.FormatBeforeFlags : Prop :=
  ∀ s : State, FrameInv s.fr →
    (∃ t u, exec (.setfmt .fdStd) s = .next t ∧ exec (.setflg 6 true) t = .next u ∧ u.fr.brs = true) ∧
    (s.fr.fmt = .classicStd ∨ s.fr.fmt = .classicExt →
      ∃ t u, exec (.setflg 6 true) s = .next t ∧ exec (.setfmt .fdStd) t = .next u ∧ u.fr.brs = false) ∧
    ∀ f, ∃ t, exec (.setfmt f) s = .next t ∧
      (f = .classicStd ∨ f = .classicExt → t.fr.brs = false ∧ t.fr.esi = false) ∧
      (f = .fdStd ∨ f = .fdExt → t.fr.remote = false) ∧ t.fr.overrun = s.fr.overrun

/-- R407: the order of `SETDLC` and a payload write does not matter. Both orders leave the same frame, so the same wire
image, in which every payload byte at or above the size of the final DLC is 0. -/
def Obligations.DlcAndPayloadOrderDoesNotMatter : Prop :=
  ∀ (d : Byte) (i : Instr) (s : State), (∃ a b, i = .psetb a b) ∨ (∃ a, i = .psetw a) →
    ∃ t u e t' u' e' : State,
      exec (.setdlc d) s = .next t ∧ exec i t = .next u ∧ exec .enc u = .next e ∧
      exec i s = .next t' ∧ exec (.setdlc d) t' = .next u' ∧ exec .enc u' = .next e' ∧
      t.fr.payload = s.fr.payload ∧ t'.fr.dlc = s.fr.dlc ∧ u.fr.dlc = d ∧ u.fr = u'.fr ∧ e.wb = e'.wb ∧
      ∀ k < 64, listedSize d.toNat s.fr.fmt.isFd ≤ k → byteAt e.wb (6 + k) = 0

/-! ### Wire-image commands -/

/-- R172, R174: `ENC` fills the wire buffer with the image of the frame, row by row of the layout, and sets `WLEN` to 96;
nothing else but the code changes. -/
def Obligations.EncWritesTheWireImage : Prop :=
  ∀ (c b a : Byte) (s : State), decode (cmdFields c b a 0x30) = .ok .enc ∧
    ∃ w, exec .enc s = .next { s with wb := w, wlen := 96, code := .ok } ∧ IsImage s.fr w

/-- R173, R175: `DEC` reports `BAD_LENGTH` when `WLEN` is not 96, else `BAD_MAGIC` when the trailer is not 0xCA, 0x01,
and changes nothing then; else the frame register takes the decoded frame, field by field. -/
def Obligations.DecReadsTheWireImage : Prop :=
  ∀ (c b a : Byte) (s : State), decode (cmdFields c b a 0x31) = .ok .dec ∧
    (s.wlen.toNat ≠ 96 → exec .dec s = .next { s with code := .badLength }) ∧
    (s.wlen.toNat = 96 → byteAt s.wb 94 ≠ 0xCA ∨ byteAt s.wb 95 ≠ 0x01 →
      exec .dec s = .next { s with code := .badMagic }) ∧
    (s.wlen.toNat = 96 → byteAt s.wb 94 = 0xCA → byteAt s.wb 95 = 0x01 →
      ∃ f, exec .dec s = .next { s with fr := f, code := .ok } ∧ IsDecoded s.wb f)

/-- R176, R177: `WCLR` clears the counter and keeps the bytes; `WPUSH` stores its byte at the counter while that is below
96, counts it, and saturates at 255. -/
def Obligations.WirePushAndClear : Prop :=
  ∀ (c b a : Byte) (s : State),
    (decode (cmdFields c b a 0x32) = .ok .wclr ∧ exec .wclr s = .next { s with wlen := 0, code := .ok }) ∧
    decode (cmdFields c b a 0x33) = .ok (.wpush a) ∧
    ∃ w n, exec (.wpush a) s = .next { s with wb := w, wlen := n, code := .ok } ∧
      n.toNat = min (s.wlen.toNat + 1) 255 ∧
      ∀ k < 96, byteAt w k = if k = s.wlen.toNat then a else byteAt s.wb k

/-- R178, R179: `WRD` reads and `WWR` writes one byte of the wire buffer, whatever `WLEN` is; an offset of 96 or more gives
`PARAM` and nothing else. -/
def Obligations.WireByteAccess : Prop :=
  ∀ (c b a : Byte) (s : State),
    decode (cmdFields c b a 0x34) = .ok (.wrd a) ∧ decode (cmdFields c b a 0x35) = .ok (.wwr a b) ∧
    (a.toNat < 96 →
      (∃ r : Word, exec (.wrd a) s = .next { s with res := r, code := .ok } ∧
        r.toNat = (byteAt s.wb a.toNat).toNat) ∧
      ∃ w, exec (.wwr a b) s = .next { s with wb := w, code := .ok } ∧
        ∀ k, byteAt w k = if k = a.toNat then b else byteAt s.wb k) ∧
    (96 ≤ a.toNat →
      exec (.wrd a) s = .next { s with code := .param } ∧ exec (.wwr a b) s = .next { s with code := .param })

/-- R181: `ENC` then `DEC` completes with `OK` and leaves the frame as it was but for held payload bytes at or above the
size, which become 0; and for every image with the trailer, `DEC` then `ENC` gives the image back but for identifier bits
above the width, invalid flags, control bits 4 and 5, payload bytes past the size and reserved bytes, which become 0. -/
def Obligations.EncodeDecodeRoundTrip : Prop :=
  (∀ s t : State, FrameInv s.fr → exec .enc s = .next t → ∃ u p, exec .dec t = .next u ∧ u.code = .ok ∧
    u.fr = { s.fr with payload := p } ∧
    ∀ k < 64, byteAt p k = if k < listedSize s.fr.dlc.toNat s.fr.fmt.isFd then byteAt s.fr.payload k else 0) ∧
  ∀ s t : State, s.wlen.toNat = 96 → byteAt s.wb 94 = 0xCA → byteAt s.wb 95 = 0x01 → exec .dec s = .next t →
    ∃ u, exec .enc t = .next u ∧ u.code = .ok ∧ u.wlen = 96 ∧
      (∀ k < 4, (byteAt u.wb k).toNat = bigEndianByte (maskIdentifier (wordAt s.wb 0) t.fr.fmt) k) ∧
      byteAt u.wb 4 = byteAt s.wb 4 ∧
      byteAt u.wb 5 = byteAt s.wb 5 &&& (if t.fr.fmt = .fdStd ∨ t.fr.fmt = .fdExt then 0xCB else 0x0F) ∧
      (∀ k < 64, byteAt u.wb (6 + k) =
        if k < listedSize (byteAt s.wb 4).toNat ((byteAt s.wb 5).getLsbD 1) then byteAt s.wb (6 + k) else 0) ∧
      (∀ k, 70 ≤ k → k < 86 → byteAt u.wb k = byteAt s.wb k) ∧
      (∀ k, 86 ≤ k → k < 94 → byteAt u.wb k = 0) ∧
      byteAt u.wb 94 = byteAt s.wb 94 ∧ byteAt u.wb 95 = byteAt s.wb 95

/-- R29, R172: the wire image depends on the frame value alone. Two frames that differ in held payload bytes at or above
the size only give the same image, whatever the wire buffers held before. -/
def Obligations.EncLeaksNoHeldPayloadByte : Prop :=
  ∀ (s s' : State) (p : Vector Byte 64) (t t' : State), s'.fr = { s.fr with payload := p } →
    (∀ k < listedSize s.fr.dlc.toNat s.fr.fmt.isFd, byteAt p k = byteAt s.fr.payload k) →
    exec .enc s = .next t → exec .enc s' = .next t' → t'.wb = t.wb ∧ t'.wlen = t.wlen

/-- R177, R408: after `WCLR`, pushing a list of bytes leaves its length (at most 255) in `WLEN` and its first 96 bytes in
the wire buffer; the other bytes of the buffer and everything else stay, and no other pending action is lost. -/
def Obligations.PushedBytesFillTheWireBuffer : Prop :=
  ∀ (bs : List Byte) (s : State) (rest : List HostAction),
    s.pending = .write .cmd (encode .wclr) :: bs.map (fun b => HostAction.write .cmd (encode (.wpush b))) ++ rest →
    ∃ w n, Sys2Proof.core.run (bs.length + 1) s =
        .next { s with wb := w, wlen := n, code := .ok, pending := rest } ∧
      n.toNat = min bs.length 255 ∧ ∀ k < 96, byteAt w k = bs.getD k (byteAt s.wb k)

/-- R175, R177, R182, R408: a byte stream delivered after `WCLR` is decoded as one input. `DEC` reports `BAD_LENGTH`
exactly when the stream is not 96 bytes long, else `BAD_MAGIC` exactly when its last two bytes are not the trailer, and
leaves the frame alone then; else the frame is the one the 96 bytes describe. -/
def Obligations.ByteStreamIsDecodedAsOneInput : Prop :=
  ∀ (bs : List Byte) (s : State) (rest : List HostAction),
    s.pending = .write .cmd (encode .wclr) :: bs.map (fun b => HostAction.write .cmd (encode (.wpush b))) ++
      (.write .cmd (encode .dec) :: rest) →
    ∃ t : State, Sys2Proof.core.run (bs.length + 2) s = .next t ∧ t.pending = rest ∧ t.mb = s.mb ∧ t.res = s.res ∧
      (bs.length ≠ 96 → t.code = .badLength ∧ t.fr = s.fr) ∧
      (bs.length = 96 → ¬ (bs[94]? = some 0xCA ∧ bs[95]? = some 0x01) → t.code = .badMagic ∧ t.fr = s.fr) ∧
      (bs.length = 96 → bs[94]? = some 0xCA → bs[95]? = some 0x01 →
        t.code = .ok ∧ ∃ w : Vector Byte 96, w.toList = bs ∧ IsDecoded w t.fr)

/-- R408: (a) a push without `WCLR` is appended to what was counted; (b) `ENC` overwrites pushed bytes; (c) a push after
`ENC` makes the next `DEC` report `BAD_LENGTH`; (d) `WWR` keeps the counter; (e) `DEC` keeps the buffer and the counter
and a second `DEC` changes nothing more. -/
def Obligations.WireBufferSequencing : Prop :=
  (∀ (b : Byte) (s : State), s.wlen.toNat < 96 → ∃ t, exec (.wpush b) s = .next t ∧
    t.wlen.toNat = s.wlen.toNat + 1 ∧ byteAt t.wb s.wlen.toNat = b) ∧
  (∀ (b : Byte) (s t u e : State), exec (.wpush b) s = .next t → exec .enc t = .next u → exec .enc s = .next e →
    u = e) ∧
  (∀ (b : Byte) (s t u : State), exec .enc s = .next t → exec (.wpush b) t = .next u →
    u.wlen = 97 ∧ u.wb = t.wb ∧ exec .dec u = .next { u with code := .badLength }) ∧
  (∀ (a b : Byte) (s t : State), exec (.wwr a b) s = .next t → t.wlen = s.wlen) ∧
  ∀ s t : State, exec .dec s = .next t → t.wb = s.wb ∧ t.wlen = s.wlen ∧ exec .dec t = .next t

/-- R182: while a check fails, `DEC` reads no byte of the wire buffer but the two of the trailer. Two states with the same
counter and the same bytes 94 and 95 fail with the same code, whatever else they hold, and keep their frame. -/
def Obligations.FailedDecodeReadsOnlyTheTrailer : Prop :=
  ∀ (s s' t : State), s'.wlen = s.wlen → byteAt s'.wb 94 = byteAt s.wb 94 → byteAt s'.wb 95 = byteAt s.wb 95 →
    exec .dec s = .next t → t.code ≠ .ok → exec .dec s' = .next { s' with code := t.code }

/-! ### Filter commands -/

/-- R201, R202: `FINIT` clears every entry and sets `INIT`, or reports `INIT_FAIL` where it is set; `FREL` clears every
entry and `INIT`, or reports `INIT_MISSING` where it is not set; `STATUS[16]` follows. -/
def Obligations.FilterTableInitAndRelease : Prop :=
  ∀ (c b a : Byte) (s : State),
    decode (cmdFields c b a 0x40) = .ok .finit ∧ decode (cmdFields c b a 0x41) = .ok .frel ∧
    (s.init = true → exec .finit s = .next { s with code := .initFail }) ∧
    (s.init = false → ∃ m, exec .finit s = .next { s with mb := m, init := true, code := .ok } ∧
      m.length = s.mb.length ∧
      (∀ e ∈ m, e.valid = false ∧ e.dir = .receive ∧ e.fmt = .classicStd ∧ e.id = 0 ∧ e.mask = 0) ∧
      (statusWord { s with mb := m, init := true, code := .ok }).getLsbD 16 = true) ∧
    (s.init = false → exec .frel s = .next { s with code := .initMissing }) ∧
    (s.init = true → ∃ m, exec .frel s = .next { s with mb := m, init := false, code := .ok } ∧
      m.length = s.mb.length ∧
      (∀ e ∈ m, e.valid = false ∧ e.dir = .receive ∧ e.fmt = .classicStd ∧ e.id = 0 ∧ e.mask = 0) ∧
      (statusWord { s with mb := m, init := false, code := .ok }).getLsbD 16 = false)

/-- R203: `MBCFG` writes every field of its entry, the identifier masked and the acceptance mask raw, and no other entry;
before `FINIT` it reports `INIT_MISSING`, and for an index not below `N_MB` `BUFFER`, and writes nothing. -/
def Obligations.MbcfgWritesOneEntry : Prop :=
  (∀ c b a : Byte, decode (cmdFields c b a 0x42) =
    .ok (.mbcfg a (.ofCode (b.extractLsb' 0 2)) (if b.getLsbD 2 then .transmit else .receive))) ∧
  ∀ (a : Byte) (f : Format) (d : Direction) (s : State),
    (s.init = false → exec (.mbcfg a f d) s = .next { s with code := .initMissing }) ∧
    (s.init = true → s.mb.length ≤ a.toNat → exec (.mbcfg a f d) s = .next { s with code := .buffer }) ∧
    (s.init = true → a.toNat < s.mb.length →
      ∃ m id, exec (.mbcfg a f d) s = .next { s with mb := m, code := .ok } ∧
        id.toNat = s.arg0.toNat % 2 ^ idWidth f ∧
        m[a.toNat]? = some { valid := true, dir := d, fmt := f, id := id, mask := s.arg1 } ∧
        ∀ k, k ≠ a.toNat → m[k]? = s.mb[k]?)

/-- R204: `MBRD` reads the selected field of an entry; its errors are `INIT_MISSING`, then `BUFFER`, then `PARAM` for
selector 3. -/
def Obligations.MbrdReadsTheSelectedField : Prop :=
  (∀ c b a : Byte, decode (cmdFields c b a 0x43) = .ok (.mbrd a (.ofCode (b.extractLsb' 0 2)))) ∧
  (Selector.ofCode 0 = .id ∧ Selector.ofCode 1 = .mask ∧ Selector.ofCode 2 = .ctrl ∧ Selector.ofCode 3 = .illegal) ∧
  ∀ (a : Byte) (x : Selector) (s : State),
    (s.init = false → exec (.mbrd a x) s = .next { s with code := .initMissing }) ∧
    (s.init = true → s.mb.length ≤ a.toNat → exec (.mbrd a x) s = .next { s with code := .buffer }) ∧
    ∀ e, s.init = true → s.mb[a.toNat]? = some e →
      exec (.mbrd a .id) s = .next { s with res := e.id, code := .ok } ∧
      exec (.mbrd a .mask) s = .next { s with res := e.mask, code := .ok } ∧
      (∃ r : Word, exec (.mbrd a .ctrl) s = .next { s with res := r, code := .ok } ∧
        r.toNat = (if e.valid then 8 else 0) + (if e.dir = .transmit then 4 else 0) + e.fmt.code.toNat) ∧
      exec (.mbrd a .illegal) s = .next { s with code := .param }

/-- R205, R206, R207: `MATCH` with `ARG0` as it stands, and `MATCHF` with the frame's identifier and format as a received
frame, give the lowest index of an entry that accepts the query, or 0 on a miss, with `OK` both times; before `FINIT`
they report `INIT_MISSING`. -/
def Obligations.MatchGivesTheFirstAcceptingEntry : Prop :=
  ∀ (c b a : Byte) (s : State),
    decode (cmdFields c b a 0x44) =
      .ok (.matchId (.ofCode (b.extractLsb' 0 2)) (if b.getLsbD 2 then .transmit else .receive)) ∧
    decode (cmdFields c b a 0x45) = .ok .matchf ∧
    (∀ f d, s.init = false → exec (.matchId f d) s = .next { s with code := .initMissing }) ∧
    (s.init = false → exec .matchf s = .next { s with code := .initMissing }) ∧
    (∀ f d, s.init = true → ∃ r, exec (.matchId f d) s = .next { s with res := r, code := .ok } ∧
      IsMatchResult s.mb s.arg0 f d r) ∧
    (s.init = true → ∃ r, exec .matchf s = .next { s with res := r, code := .ok } ∧
      IsMatchResult s.mb s.fr.id s.fr.fmt .receive r)

/-- R203, R205, R208 (a, b, d), R410: an entry 0 configured as an exact filter is hit by the next query exactly when the
identifiers agree in the bits of the format's width, above every entry after it; a query of another format never hits
it. The number of entries is one that R5 allows. -/
def Obligations.ExactFilterAcceptsItsIdentifierOnly : Prop :=
  ∀ (s : State) (f : Format) (d : Direction) (t : State) (rid : Word),
    s.init = true → 0 < s.mb.length → s.mb.length ≤ 256 → s.arg1 = (if f.isExt then 0x1FFFFFFF else 0x7FF) →
    exec (.mbcfg 0 f d) s = .next t →
    (∃ u, exec (.matchId f d) { t with arg0 := rid } = .next u ∧ u.code = .ok ∧
      (u.res = 0x80000000 ↔ rid.toNat % 2 ^ idWidth f = s.arg0.toNat % 2 ^ idWidth f)) ∧
    ∀ f' d', f' ≠ f → ∃ u, exec (.matchId f' d') { t with arg0 := rid } = .next u ∧ u.code = .ok ∧
      u.res ≠ 0x80000000
end

