-- ==== Sys2Proof/Laws/Fields.lean ====
section
/-! SUPPORT. The fields of a command word, and the codes of the operand forms: what each reads back. -/

namespace Sys2Proof

/-! ### Words of four bytes as numbers -/

theorem toNat_append_byte {n : Nat} (x : BitVec n) (y : Byte) : (x ++ y).toNat = x.toNat * 2 ^ 8 + y.toNat := by
  rw [BitVec.toNat_append, Nat.shiftLeft_eq, Nat.mul_comm, Nat.two_pow_add_eq_or_of_lt y.isLt]

theorem cmdFields_toNat (c b a op : Byte) :
    (cmdFields c b a op).toNat = c.toNat * 2 ^ 24 + b.toNat * 2 ^ 16 + a.toNat * 2 ^ 8 + op.toNat := by
  have h : (cmdFields c b a op).toNat = ((c.toNat * 2 ^ 8 + b.toNat) * 2 ^ 8 + a.toNat) * 2 ^ 8 + op.toNat := by
    unfold cmdFields
    rw [toNat_append_byte, toNat_append_byte, toNat_append_byte]
  rw [h]
  ring

theorem opField_toNat (w : Word) : (opField w).toNat = w.toNat % 2 ^ 8 := by
  simp [opField, BitVec.extractLsb'_toNat]

theorem aField_toNat (w : Word) : (aField w).toNat = w.toNat / 2 ^ 8 % 2 ^ 8 := by
  simp [aField, BitVec.extractLsb'_toNat, Nat.shiftRight_eq_div_pow]

theorem bField_toNat (w : Word) : (bField w).toNat = w.toNat / 2 ^ 16 % 2 ^ 8 := by
  simp [bField, BitVec.extractLsb'_toNat, Nat.shiftRight_eq_div_pow]

theorem opField_cmdFields (c b a op : Byte) : opField (cmdFields c b a op) = op := by
  apply BitVec.eq_of_toNat_eq
  rw [opField_toNat, cmdFields_toNat]
  omega

theorem aField_cmdFields (c b a op : Byte) : aField (cmdFields c b a op) = a := by
  apply BitVec.eq_of_toNat_eq
  rw [aField_toNat, cmdFields_toNat]
  omega

theorem bField_cmdFields (c b a op : Byte) : bField (cmdFields c b a op) = b := by
  apply BitVec.eq_of_toNat_eq
  rw [bField_toNat, cmdFields_toNat]
  omega

/-- Decoding a word given by its fields: field `C` plays no part. -/
theorem decode_cmdFields (c b a op : Byte) : decode (cmdFields c b a op) = decodeFields op a b := by
  rw [decode, opField_cmdFields, aField_cmdFields, bField_cmdFields]

theorem decode_cmdWord (op a b : Byte) : decode (cmdWord op a b) = decodeFields op a b :=
  decode_cmdFields 0 b a op

theorem opField_cmdWord (op a b : Byte) : opField (cmdWord op a b) = op := opField_cmdFields 0 b a op

/-- Every word is the word of its four fields. -/
theorem exists_cmdFields (w : Word) : ∃ c b a op, w = cmdFields c b a op := by
  refine ⟨BitVec.ofNat 8 (w.toNat / 2 ^ 24), BitVec.ofNat 8 (w.toNat / 2 ^ 16), BitVec.ofNat 8 (w.toNat / 2 ^ 8),
    BitVec.ofNat 8 w.toNat, BitVec.eq_of_toNat_eq ?_⟩
  have := w.isLt
  rw [cmdFields_toNat]
  simp only [BitVec.toNat_ofNat]
  omega

/-! ### The operand forms read back what they encode -/

theorem Format.ofCode_code (f : Format) : Format.ofCode f.code = f := by cases f <;> rfl

theorem Format.code_toNat (f : Format) : f.code.toNat = 2 * f.isFd.toNat + f.isExt.toNat := by cases f <;> rfl

theorem Format.isFd_ofCode (c : BitVec 2) : (Format.ofCode c).isFd = c.getLsbD 1 := by
  revert c; decide

theorem Format.isExt_ofCode (c : BitVec 2) : (Format.ofCode c).isExt = c.getLsbD 0 := by
  revert c; decide

theorem Direction.ofBit_bit (d : Direction) : Direction.ofBit d.bit = d := by cases d <;> rfl

theorem Selector.ofCode_code (s : Selector) : Selector.ofCode s.code = s := by cases s <;> rfl

theorem fmtForm_fmtByte (f : Format) : fmtForm (fmtByte f) = f := by cases f <;> rfl

theorem fmtForm_fmtdirByte (f : Format) (d : Direction) : fmtForm (fmtdirByte f d) = f := by
  cases f <;> cases d <;> rfl

theorem dirForm_fmtdirByte (f : Format) (d : Direction) : dirForm (fmtdirByte f d) = d := by
  cases f <;> cases d <;> rfl

theorem bitForm_bitByte (b : Bool) : bitForm (bitByte b) = b := by cases b <;> rfl

theorem selForm_selByte (s : Selector) : selForm (selByte s) = s := by cases s <;> rfl

end Sys2Proof
end

