-- ==== Sys2Proof/Laws/Bytes.lean ====
section
/-! SUPPORT. Byte arrays, byte order, identifier masks and sizes: one lemma that says what each operation gives. -/

namespace Sys2Proof.Machine

/-! ### Byte arrays -/

theorem byteAt_eq_getElem {n : Nat} (v : Vector Byte n) (k : Nat) (h : k < n) : byteAt v k = v[k] := by
  simp [byteAt, Vector.getD, Vector.getElem_toArray, h]

theorem byteAt_ge {n : Nat} (v : Vector Byte n) (k : Nat) (h : n ≤ k) : byteAt v k = 0 := by
  simp [byteAt, Vector.getD, Nat.not_lt.2 h]

/-- Read after write: the written byte at its own offset, every other byte as before. -/
theorem byteAt_putByte {n : Nat} (v : Vector Byte n) (k j : Nat) (b : Byte) (hk : k < n) :
    byteAt (putByte v k b) j = if j = k then b else byteAt v j := by
  rcases Nat.lt_or_ge j n with hj | hj
  · rw [byteAt_eq_getElem _ _ hj, byteAt_eq_getElem _ _ hj]
    simp only [putByte, Vector.getElem_setIfInBounds hj, eq_comm]
  · rw [byteAt_ge _ _ hj, byteAt_ge _ _ hj, if_neg (by omega)]

theorem byteAt_ofFn {n : Nat} (f : Fin n → Byte) (k : Nat) (h : k < n) : byteAt (Vector.ofFn f) k = f ⟨k, h⟩ := by
  rw [byteAt_eq_getElem _ _ h, Vector.getElem_ofFn]

theorem byteAt_replicate {n : Nat} (k : Nat) : byteAt (Vector.replicate n (0 : Byte)) k = 0 := by
  rcases Nat.lt_or_ge k n with h | h
  · rw [byteAt_eq_getElem _ _ h, Vector.getElem_replicate]
  · exact byteAt_ge _ _ h

/-- Two byte arrays are equal when every byte is. -/
theorem byteArray_ext {n : Nat} {v w : Vector Byte n} (h : ∀ k, k < n → byteAt v k = byteAt w k) : v = w := by
  ext k hk
  rw [← byteAt_eq_getElem, ← byteAt_eq_getElem, h k hk]

/-- A word store: its four bytes, big-endian, and every other byte as before (R66). -/
theorem byteAt_putWord {n : Nat} (v : Vector Byte n) (k j : Nat) (x : Word) (hk : k + 3 < n) :
    byteAt (putWord v k x) j = if k ≤ j ∧ j < k + 4 then be32Byte x (j - k) else byteAt v j := by
  unfold putWord
  rw [byteAt_putByte _ _ _ _ (by omega), byteAt_putByte _ _ _ _ (by omega), byteAt_putByte _ _ _ _ (by omega),
    byteAt_putByte _ _ _ _ (by omega)]
  rcases Nat.lt_or_ge j k with h | h
  · simp [show ¬ k ≤ j by omega, show j ≠ k by omega, show j ≠ k + 1 by omega, show j ≠ k + 2 by omega,
      show j ≠ k + 3 by omega]
  · obtain ⟨d, rfl⟩ := Nat.exists_eq_add_of_le h
    match d with
    | 0 => simp
    | 1 => simp
    | 2 => simp
    | 3 => simp
    | d + 4 => simp

/-! ### Big-endian words -/

theorem be32_toNat (b0 b1 b2 b3 : Byte) :
    (be32 b0 b1 b2 b3).toNat = b0.toNat * 2 ^ 24 + b1.toNat * 2 ^ 16 + b2.toNat * 2 ^ 8 + b3.toNat :=
  cmdFields_toNat b0 b1 b2 b3

theorem be32Byte_toNat (v : Word) (k : Nat) : (be32Byte v k).toNat = v.toNat / 2 ^ (8 * (3 - k)) % 2 ^ 8 := by
  simp [be32Byte, BitVec.extractLsb'_toNat, Nat.shiftRight_eq_div_pow]

/-- The bytes of a word put together give the word (R9). -/
theorem be32_bytes (v : Word) : be32 (be32Byte v 0) (be32Byte v 1) (be32Byte v 2) (be32Byte v 3) = v := by
  apply BitVec.eq_of_toNat_eq
  have := v.isLt
  simp only [be32_toNat, be32Byte_toNat]
  omega

/-- Byte `k` of a word put together from four bytes is the `k`th of them (R9). -/
theorem be32Byte_be32 (b0 b1 b2 b3 : Byte) :
    be32Byte (be32 b0 b1 b2 b3) 0 = b0 ∧ be32Byte (be32 b0 b1 b2 b3) 1 = b1 ∧
      be32Byte (be32 b0 b1 b2 b3) 2 = b2 ∧ be32Byte (be32 b0 b1 b2 b3) 3 = b3 := by
  have h0 := b0.isLt; have h1 := b1.isLt; have h2 := b2.isLt; have h3 := b3.isLt
  refine ⟨?_, ?_, ?_, ?_⟩ <;> apply BitVec.eq_of_toNat_eq <;> rw [be32Byte_toNat, be32_toNat] <;> omega

/-- The word read at an offset, as a number (R66). -/
theorem wordAt_toNat {n : Nat} (v : Vector Byte n) (k : Nat) :
    (wordAt v k).toNat = (byteAt v k).toNat * 2 ^ 24 + (byteAt v (k + 1)).toNat * 2 ^ 16 +
      (byteAt v (k + 2)).toNat * 2 ^ 8 + (byteAt v (k + 3)).toNat :=
  be32_toNat _ _ _ _

/-! ### The STATUS word -/

/-- The `STATUS` word as a number: the code, and `INIT` at bit 16 (R24). -/
theorem statusWord_toNat (s : State) : (statusWord s).toNat = s.code.number.toNat + 2 ^ 16 * s.init.toNat := by
  have h : (statusWord s).toNat = (((0#15 ++ BitVec.ofBool s.init).toNat * 2 ^ 8 + (0#8).toNat) * 2 ^ 8) +
      s.code.number.toNat := by
    unfold statusWord
    rw [toNat_append_byte, toNat_append_byte]
  rw [h]
  cases s.init
  · simp
  · simp; omega

/-! ### Identifier masks (R102) -/

/-- Masking keeps the low 11 or 29 bits. -/
theorem maskIdentifier_toNat (id : Word) (f : Format) :
    (maskIdentifier id f).toNat = id.toNat % 2 ^ (if f.isExt then 29 else 11) := by
  have h11 : (0x7FF : Word).toNat = 2 ^ 11 - 1 := rfl
  have h29 : (0x1FFFFFFF : Word).toNat = 2 ^ 29 - 1 := rfl
  unfold maskIdentifier idmask
  cases f.isExt <;> simp only [BitVec.toNat_and, Bool.false_eq_true, if_false, if_true, h11, h29,
    Nat.and_two_pow_sub_one_eq_mod]

theorem idmask_toNat (f : Format) : (idmask f).toNat = 2 ^ (if f.isExt then 29 else 11) - 1 := by
  unfold idmask
  cases f.isExt <;> rfl

/-- A masked identifier is at most the mask (R106 d). -/
theorem maskIdentifier_le (id : Word) (f : Format) : maskIdentifier id f ≤ idmask f := by
  rw [BitVec.le_def, maskIdentifier_toNat, idmask_toNat]
  have : 0 < 2 ^ (if f.isExt then 29 else 11) := Nat.two_pow_pos _
  have := Nat.mod_lt id.toNat this
  omega

/-- An identifier that is at most the mask is left as it is. -/
theorem maskIdentifier_of_le {id : Word} {f : Format} (h : id ≤ idmask f) : maskIdentifier id f = id := by
  apply BitVec.eq_of_toNat_eq
  rw [BitVec.le_def, idmask_toNat] at h
  have : 0 < 2 ^ (if f.isExt then 29 else 11) := Nat.two_pow_pos _
  rw [maskIdentifier_toNat, Nat.mod_eq_of_lt (by omega)]

/-! ### Sizes (R100, R101) -/

theorem dlcToSize_le (d : Byte) (fd : Bool) : dlcToSize d fd ≤ 64 := by
  unfold dlcToSize
  split
  · omega
  · split
    · omega
    · split <;> omega

theorem sizeToDlc_le (n : Byte) (fd : Bool) : sizeToDlc n fd ≤ 15 := by
  unfold sizeToDlc
  cases fd
  · simp
  · simp only [Bool.not_true, Bool.false_eq_true, if_false]
    repeat' split
    all_goals omega

end Sys2Proof.Machine
end

