-- ==== Sys2Proof/Laws/State.lean ====
section
/-! SUPPORT. One lemma per field of State per named update, so that no proof unfolds a record update. -/

namespace Sys2Proof.Machine

variable (s : State)

/-! ### `setArg0` -/

@[simp] theorem State.setArg0_arg0 (v : Word) : (s.setArg0 v).arg0 = v := rfl
@[simp] theorem State.setArg0_arg1 (v : Word) : (s.setArg0 v).arg1 = s.arg1 := rfl
@[simp] theorem State.setArg0_res (v : Word) : (s.setArg0 v).res = s.res := rfl
@[simp] theorem State.setArg0_code (v : Word) : (s.setArg0 v).code = s.code := rfl
@[simp] theorem State.setArg0_fr (v : Word) : (s.setArg0 v).fr = s.fr := rfl
@[simp] theorem State.setArg0_wb (v : Word) : (s.setArg0 v).wb = s.wb := rfl
@[simp] theorem State.setArg0_wlen (v : Word) : (s.setArg0 v).wlen = s.wlen := rfl
@[simp] theorem State.setArg0_mb (v : Word) : (s.setArg0 v).mb = s.mb := rfl
@[simp] theorem State.setArg0_init (v : Word) : (s.setArg0 v).init = s.init := rfl
@[simp] theorem State.setArg0_pending (v : Word) : (s.setArg0 v).pending = s.pending := rfl
@[simp] theorem State.setArg0_reads (v : Word) : (s.setArg0 v).reads = s.reads := rfl

/-! ### `setArg1` -/

@[simp] theorem State.setArg1_arg0 (v : Word) : (s.setArg1 v).arg0 = s.arg0 := rfl
@[simp] theorem State.setArg1_arg1 (v : Word) : (s.setArg1 v).arg1 = v := rfl
@[simp] theorem State.setArg1_res (v : Word) : (s.setArg1 v).res = s.res := rfl
@[simp] theorem State.setArg1_code (v : Word) : (s.setArg1 v).code = s.code := rfl
@[simp] theorem State.setArg1_fr (v : Word) : (s.setArg1 v).fr = s.fr := rfl
@[simp] theorem State.setArg1_wb (v : Word) : (s.setArg1 v).wb = s.wb := rfl
@[simp] theorem State.setArg1_wlen (v : Word) : (s.setArg1 v).wlen = s.wlen := rfl
@[simp] theorem State.setArg1_mb (v : Word) : (s.setArg1 v).mb = s.mb := rfl
@[simp] theorem State.setArg1_init (v : Word) : (s.setArg1 v).init = s.init := rfl
@[simp] theorem State.setArg1_pending (v : Word) : (s.setArg1 v).pending = s.pending := rfl
@[simp] theorem State.setArg1_reads (v : Word) : (s.setArg1 v).reads = s.reads := rfl

/-! ### `setRes` -/

@[simp] theorem State.setRes_arg0 (v : Word) : (s.setRes v).arg0 = s.arg0 := rfl
@[simp] theorem State.setRes_arg1 (v : Word) : (s.setRes v).arg1 = s.arg1 := rfl
@[simp] theorem State.setRes_res (v : Word) : (s.setRes v).res = v := rfl
@[simp] theorem State.setRes_code (v : Word) : (s.setRes v).code = s.code := rfl
@[simp] theorem State.setRes_fr (v : Word) : (s.setRes v).fr = s.fr := rfl
@[simp] theorem State.setRes_wb (v : Word) : (s.setRes v).wb = s.wb := rfl
@[simp] theorem State.setRes_wlen (v : Word) : (s.setRes v).wlen = s.wlen := rfl
@[simp] theorem State.setRes_mb (v : Word) : (s.setRes v).mb = s.mb := rfl
@[simp] theorem State.setRes_init (v : Word) : (s.setRes v).init = s.init := rfl
@[simp] theorem State.setRes_pending (v : Word) : (s.setRes v).pending = s.pending := rfl
@[simp] theorem State.setRes_reads (v : Word) : (s.setRes v).reads = s.reads := rfl

/-! ### `setCode` -/

@[simp] theorem State.setCode_arg0 (v : Code) : (s.setCode v).arg0 = s.arg0 := rfl
@[simp] theorem State.setCode_arg1 (v : Code) : (s.setCode v).arg1 = s.arg1 := rfl
@[simp] theorem State.setCode_res (v : Code) : (s.setCode v).res = s.res := rfl
@[simp] theorem State.setCode_code (v : Code) : (s.setCode v).code = v := rfl
@[simp] theorem State.setCode_fr (v : Code) : (s.setCode v).fr = s.fr := rfl
@[simp] theorem State.setCode_wb (v : Code) : (s.setCode v).wb = s.wb := rfl
@[simp] theorem State.setCode_wlen (v : Code) : (s.setCode v).wlen = s.wlen := rfl
@[simp] theorem State.setCode_mb (v : Code) : (s.setCode v).mb = s.mb := rfl
@[simp] theorem State.setCode_init (v : Code) : (s.setCode v).init = s.init := rfl
@[simp] theorem State.setCode_pending (v : Code) : (s.setCode v).pending = s.pending := rfl
@[simp] theorem State.setCode_reads (v : Code) : (s.setCode v).reads = s.reads := rfl

/-! ### `setFr` -/

@[simp] theorem State.setFr_arg0 (v : Frame) : (s.setFr v).arg0 = s.arg0 := rfl
@[simp] theorem State.setFr_arg1 (v : Frame) : (s.setFr v).arg1 = s.arg1 := rfl
@[simp] theorem State.setFr_res (v : Frame) : (s.setFr v).res = s.res := rfl
@[simp] theorem State.setFr_code (v : Frame) : (s.setFr v).code = s.code := rfl
@[simp] theorem State.setFr_fr (v : Frame) : (s.setFr v).fr = v := rfl
@[simp] theorem State.setFr_wb (v : Frame) : (s.setFr v).wb = s.wb := rfl
@[simp] theorem State.setFr_wlen (v : Frame) : (s.setFr v).wlen = s.wlen := rfl
@[simp] theorem State.setFr_mb (v : Frame) : (s.setFr v).mb = s.mb := rfl
@[simp] theorem State.setFr_init (v : Frame) : (s.setFr v).init = s.init := rfl
@[simp] theorem State.setFr_pending (v : Frame) : (s.setFr v).pending = s.pending := rfl
@[simp] theorem State.setFr_reads (v : Frame) : (s.setFr v).reads = s.reads := rfl

/-! ### `setWb` -/

@[simp] theorem State.setWb_arg0 (v : Vector Byte 96) : (s.setWb v).arg0 = s.arg0 := rfl
@[simp] theorem State.setWb_arg1 (v : Vector Byte 96) : (s.setWb v).arg1 = s.arg1 := rfl
@[simp] theorem State.setWb_res (v : Vector Byte 96) : (s.setWb v).res = s.res := rfl
@[simp] theorem State.setWb_code (v : Vector Byte 96) : (s.setWb v).code = s.code := rfl
@[simp] theorem State.setWb_fr (v : Vector Byte 96) : (s.setWb v).fr = s.fr := rfl
@[simp] theorem State.setWb_wb (v : Vector Byte 96) : (s.setWb v).wb = v := rfl
@[simp] theorem State.setWb_wlen (v : Vector Byte 96) : (s.setWb v).wlen = s.wlen := rfl
@[simp] theorem State.setWb_mb (v : Vector Byte 96) : (s.setWb v).mb = s.mb := rfl
@[simp] theorem State.setWb_init (v : Vector Byte 96) : (s.setWb v).init = s.init := rfl
@[simp] theorem State.setWb_pending (v : Vector Byte 96) : (s.setWb v).pending = s.pending := rfl
@[simp] theorem State.setWb_reads (v : Vector Byte 96) : (s.setWb v).reads = s.reads := rfl

/-! ### `setWlen` -/

@[simp] theorem State.setWlen_arg0 (v : Byte) : (s.setWlen v).arg0 = s.arg0 := rfl
@[simp] theorem State.setWlen_arg1 (v : Byte) : (s.setWlen v).arg1 = s.arg1 := rfl
@[simp] theorem State.setWlen_res (v : Byte) : (s.setWlen v).res = s.res := rfl
@[simp] theorem State.setWlen_code (v : Byte) : (s.setWlen v).code = s.code := rfl
@[simp] theorem State.setWlen_fr (v : Byte) : (s.setWlen v).fr = s.fr := rfl
@[simp] theorem State.setWlen_wb (v : Byte) : (s.setWlen v).wb = s.wb := rfl
@[simp] theorem State.setWlen_wlen (v : Byte) : (s.setWlen v).wlen = v := rfl
@[simp] theorem State.setWlen_mb (v : Byte) : (s.setWlen v).mb = s.mb := rfl
@[simp] theorem State.setWlen_init (v : Byte) : (s.setWlen v).init = s.init := rfl
@[simp] theorem State.setWlen_pending (v : Byte) : (s.setWlen v).pending = s.pending := rfl
@[simp] theorem State.setWlen_reads (v : Byte) : (s.setWlen v).reads = s.reads := rfl

/-! ### `setMb` -/

@[simp] theorem State.setMb_arg0 (v : List Mailbox) : (s.setMb v).arg0 = s.arg0 := rfl
@[simp] theorem State.setMb_arg1 (v : List Mailbox) : (s.setMb v).arg1 = s.arg1 := rfl
@[simp] theorem State.setMb_res (v : List Mailbox) : (s.setMb v).res = s.res := rfl
@[simp] theorem State.setMb_code (v : List Mailbox) : (s.setMb v).code = s.code := rfl
@[simp] theorem State.setMb_fr (v : List Mailbox) : (s.setMb v).fr = s.fr := rfl
@[simp] theorem State.setMb_wb (v : List Mailbox) : (s.setMb v).wb = s.wb := rfl
@[simp] theorem State.setMb_wlen (v : List Mailbox) : (s.setMb v).wlen = s.wlen := rfl
@[simp] theorem State.setMb_mb (v : List Mailbox) : (s.setMb v).mb = v := rfl
@[simp] theorem State.setMb_init (v : List Mailbox) : (s.setMb v).init = s.init := rfl
@[simp] theorem State.setMb_pending (v : List Mailbox) : (s.setMb v).pending = s.pending := rfl
@[simp] theorem State.setMb_reads (v : List Mailbox) : (s.setMb v).reads = s.reads := rfl

/-! ### `setInit` -/

@[simp] theorem State.setInit_arg0 (v : Bool) : (s.setInit v).arg0 = s.arg0 := rfl
@[simp] theorem State.setInit_arg1 (v : Bool) : (s.setInit v).arg1 = s.arg1 := rfl
@[simp] theorem State.setInit_res (v : Bool) : (s.setInit v).res = s.res := rfl
@[simp] theorem State.setInit_code (v : Bool) : (s.setInit v).code = s.code := rfl
@[simp] theorem State.setInit_fr (v : Bool) : (s.setInit v).fr = s.fr := rfl
@[simp] theorem State.setInit_wb (v : Bool) : (s.setInit v).wb = s.wb := rfl
@[simp] theorem State.setInit_wlen (v : Bool) : (s.setInit v).wlen = s.wlen := rfl
@[simp] theorem State.setInit_mb (v : Bool) : (s.setInit v).mb = s.mb := rfl
@[simp] theorem State.setInit_init (v : Bool) : (s.setInit v).init = v := rfl
@[simp] theorem State.setInit_pending (v : Bool) : (s.setInit v).pending = s.pending := rfl
@[simp] theorem State.setInit_reads (v : Bool) : (s.setInit v).reads = s.reads := rfl

/-! ### `setPending` -/

@[simp] theorem State.setPending_arg0 (v : List HostAction) : (s.setPending v).arg0 = s.arg0 := rfl
@[simp] theorem State.setPending_arg1 (v : List HostAction) : (s.setPending v).arg1 = s.arg1 := rfl
@[simp] theorem State.setPending_res (v : List HostAction) : (s.setPending v).res = s.res := rfl
@[simp] theorem State.setPending_code (v : List HostAction) : (s.setPending v).code = s.code := rfl
@[simp] theorem State.setPending_fr (v : List HostAction) : (s.setPending v).fr = s.fr := rfl
@[simp] theorem State.setPending_wb (v : List HostAction) : (s.setPending v).wb = s.wb := rfl
@[simp] theorem State.setPending_wlen (v : List HostAction) : (s.setPending v).wlen = s.wlen := rfl
@[simp] theorem State.setPending_mb (v : List HostAction) : (s.setPending v).mb = s.mb := rfl
@[simp] theorem State.setPending_init (v : List HostAction) : (s.setPending v).init = s.init := rfl
@[simp] theorem State.setPending_pending (v : List HostAction) : (s.setPending v).pending = v := rfl
@[simp] theorem State.setPending_reads (v : List HostAction) : (s.setPending v).reads = s.reads := rfl

/-! ### `recordRead` -/

@[simp] theorem State.recordRead_arg0 (v : Word) : (s.recordRead v).arg0 = s.arg0 := rfl
@[simp] theorem State.recordRead_arg1 (v : Word) : (s.recordRead v).arg1 = s.arg1 := rfl
@[simp] theorem State.recordRead_res (v : Word) : (s.recordRead v).res = s.res := rfl
@[simp] theorem State.recordRead_code (v : Word) : (s.recordRead v).code = s.code := rfl
@[simp] theorem State.recordRead_fr (v : Word) : (s.recordRead v).fr = s.fr := rfl
@[simp] theorem State.recordRead_wb (v : Word) : (s.recordRead v).wb = s.wb := rfl
@[simp] theorem State.recordRead_wlen (v : Word) : (s.recordRead v).wlen = s.wlen := rfl
@[simp] theorem State.recordRead_mb (v : Word) : (s.recordRead v).mb = s.mb := rfl
@[simp] theorem State.recordRead_init (v : Word) : (s.recordRead v).init = s.init := rfl
@[simp] theorem State.recordRead_pending (v : Word) : (s.recordRead v).pending = s.pending := rfl
@[simp] theorem State.recordRead_reads (v : Word) : (s.recordRead v).reads = s.reads ++ [v] := rfl

/-! ### `resetBlock` (R400) -/

@[simp] theorem State.resetBlock_arg0 : s.resetBlock.arg0 = 0 := rfl
@[simp] theorem State.resetBlock_arg1 : s.resetBlock.arg1 = 0 := rfl
@[simp] theorem State.resetBlock_res : s.resetBlock.res = 0 := rfl
@[simp] theorem State.resetBlock_code : s.resetBlock.code = .ok := rfl
@[simp] theorem State.resetBlock_fr : s.resetBlock.fr = Frame.empty := rfl
@[simp] theorem State.resetBlock_wb : s.resetBlock.wb = Vector.replicate 96 0 := rfl
@[simp] theorem State.resetBlock_wlen : s.resetBlock.wlen = 0 := rfl
@[simp] theorem State.resetBlock_mb : s.resetBlock.mb = List.replicate s.mb.length Mailbox.empty := rfl
@[simp] theorem State.resetBlock_init : s.resetBlock.init = false := rfl
@[simp] theorem State.resetBlock_pending : s.resetBlock.pending = s.pending := rfl
@[simp] theorem State.resetBlock_reads : s.resetBlock.reads = s.reads := rfl

/-! ### `Frame.size` -/

@[simp] theorem Frame.size_withPayload (f : Frame) (p : Vector Byte 64) : Frame.size { f with payload := p } = f.size := rfl

end Sys2Proof.Machine
end

