-- ==== Sys2Proof/Laws/Commands.lean ====
section
/-! SUPPORT. What the shared operations of the commands can do: how a command ends, what an operand check lets through,
what the matcher finds, what one action of the host leads to. -/

namespace Sys2Proof.Machine

/-! ### How a command ends (R8) -/

theorem done_eq_next {s t : State} : done s = .next t ↔ t = s.setCode .ok := by
  simp only [done, Host.Outcome.next.injEq, eq_comm]

theorem doneWith_eq_next {v : Word} {s t : State} : doneWith v s = .next t ↔ t = (s.setRes v).setCode .ok := by
  simp only [doneWith, done_eq_next]

theorem raise_eq_next {e : Code} {s t : State} : raise e s = .next t ↔ t = s.setCode e := by
  simp only [raise, Host.Outcome.next.injEq, eq_comm]

theorem whenInit_eq_next {s t : State} {k : Result} :
    whenInit s k = .next t ↔ (s.init = true ∧ k = .next t) ∨ (s.init = false ∧ t = s.setCode .initMissing) := by
  unfold whenInit
  cases s.init <;> simp [raise_eq_next]

/-! ### Operand checks (R82) -/

theorem payloadByteOffset_eq_some {a : Byte} {k : Nat} : payloadByteOffset a = some k ↔ k = a.toNat ∧ k < 64 := by
  unfold payloadByteOffset
  split <;> simp <;> omega

theorem payloadWordOffset_eq_some {a : Byte} {k : Nat} : payloadWordOffset a = some k ↔ k = a.toNat ∧ k ≤ 60 := by
  unfold payloadWordOffset
  split <;> simp <;> omega

theorem wireOffset_eq_some {a : Byte} {k : Nat} : wireOffset a = some k ↔ k = a.toNat ∧ k < 96 := by
  unfold wireOffset
  split <;> simp <;> omega

theorem mailboxIndex_eq_some {s : State} {a : Byte} {k : Nat} :
    mailboxIndex s a = some k ↔ k = a.toNat ∧ k < s.mb.length := by
  unfold mailboxIndex
  split <;> simp <;> omega

/-! ### The control byte (R28) -/

/-- The control byte as a number: each flag at its bit, bits 4 and 5 zero. -/
theorem ctlByte_toNat (f : Format) (r o b e : Bool) :
    (ctlByte f r o b e).toNat = f.isExt.toNat + 2 * f.isFd.toNat + 4 * r.toNat + 8 * o.toNat + 64 * b.toNat +
      128 * e.toNat := by
  cases f <;> cases r <;> cases o <;> cases b <;> cases e <;> rfl

/-! ### The wire image (R172) -/

theorem byteAt_ser (f : Frame) (k : Nat) (h : k < 96) : byteAt (ser f) k = serByte f k :=
  byteAt_ofFn _ k h

theorem byteAt_des_payload (w : Vector Byte 96) (k : Nat) (h : k < 64) :
    byteAt (des w).payload k = if k < (des w).size then byteAt w (6 + k) else 0 := by
  have e : (des w).size = dlcToSize (byteAt w 4) ((byteAt w 5).getLsbD 1) := by
    simp only [des, Frame.size, Format.isFd_ofCode]
    simp
  rw [e]
  exact byteAt_ofFn _ k h

/-! ### The matcher (R205) -/

/-- A hit is the lowest index of an entry that is hit. -/
theorem matchIndex_eq_some {m : List Mailbox} {rid : Word} {f : Format} {d : Direction} {i : Nat} :
    matchIndex m rid f d = some i ↔
      ∃ h : i < m.length, m[i].hits rid f d = true ∧ ∀ j, ∀ hj : j < i, m[j].hits rid f d = false := by
  simp [matchIndex, List.findIdx?_eq_some_iff_getElem]

/-- A miss says that no entry is hit. -/
theorem matchIndex_eq_none {m : List Mailbox} {rid : Word} {f : Format} {d : Direction} :
    matchIndex m rid f d = none ↔ ∀ e ∈ m, e.hits rid f d = false := by
  simp [matchIndex, List.findIdx?_eq_none_iff]

theorem hits_eq_true {e : Mailbox} {rid : Word} {f : Format} {d : Direction} :
    e.hits rid f d = true ↔ e.valid = true ∧ e.dir = d ∧ e.fmt = f ∧ rid &&& e.mask = e.id &&& e.mask := by
  simp [Mailbox.hits, and_assoc]

theorem matchWord_some_toNat (i : Nat) : (matchWord (some i)).toNat = 2 ^ 31 + i % 256 := by
  have h : (1#32 <<< 31 : Word) = 0x80000000#32 := rfl
  have h31 : (0x80000000#32).toNat = 2 ^ 31 * 1 := rfl
  have hi : (BitVec.ofNat 8 i).toNat < 2 ^ 31 := lt_of_lt_of_le (BitVec.isLt _) (by decide)
  simp only [matchWord, h, BitVec.toNat_or, BitVec.toNat_setWidth, h31]
  rw [Nat.mod_eq_of_lt (lt_of_lt_of_le hi (by decide)), ← Nat.two_pow_add_eq_or_of_lt hi]
  simp

/-! ### Port accesses (R63, R64) -/

/-- What an action of the host can lead to: a command's outcome, a code, an operand register, a recorded read, a reset,
or nothing. -/
theorem perform_cases {a : HostAction} {s t : State} (h : perform a s = .next t) :
    (∃ w i, a = .write .cmd w ∧ decode w = .ok i ∧ exec i s = .next t) ∨
    (∃ w e, a = .write .cmd w ∧ decode w = .error e ∧ t = s.setCode .notSupported) ∨
    (∃ w, a = .write .arg0 w ∧ t = s.setArg0 w) ∨
    (∃ w, a = .write .arg1 w ∧ t = s.setArg1 w) ∨
    (∃ p w, a = .write p w ∧ p ≠ .cmd ∧ p ≠ .arg0 ∧ p ≠ .arg1 ∧ t = s) ∨
    (∃ p, a = .read p ∧ t = s.recordRead (portRead s p)) ∨
    (a = .reset ∧ t = s.resetBlock) := by
  match a with
  | .reset => simp_all [perform]
  | .read p => simp_all [perform]
  | .write .cmd w =>
    simp only [perform, portWrite, command] at h
    split at h
    · exact .inl ⟨w, _, rfl, ‹_›, h⟩
    · exact .inr (.inl ⟨w, _, rfl, ‹_›, raise_eq_next.1 h⟩)
  | .write .arg0 w => simp_all [perform, portWrite]
  | .write .arg1 w => simp_all [perform, portWrite]
  | .write .res w => simp_all [perform, portWrite]
  | .write .status w => simp_all [perform, portWrite]
  | .write .reserved5 w => simp_all [perform, portWrite]
  | .write .reserved6 w => simp_all [perform, portWrite]
  | .write .reserved7 w => simp_all [perform, portWrite]

end Sys2Proof.Machine
end

