-- ==== Sys2Proof/Laws/PerInstr.lean ====
section
/-! SUPPORT. Per instruction: the word `encode` writes carries the opcode of the command's row in the opcode table, and
its field `C` is zero (R84, R86). -/

namespace Sys2Proof

/-- The encoded word has the row's opcode in its low byte and zero in its high byte. -/
def Laws.EncodesItsRow.Statement (i : Instr) : Prop :=
  (opField (encode i)).toNat = Machine.tableOpcode i ∧ (encode i).toNat < 2 ^ 24

/-- A word built from an opcode and two immediates has that opcode, and field `C` zero. -/
theorem Laws.EncodesItsRow.of_cmdWord (op a b : Byte) :
    (opField (cmdWord op a b)).toNat = op.toNat ∧ (cmdWord op a b).toNat < 2 ^ 24 := by
  refine ⟨by rw [opField_cmdWord], ?_⟩
  have h := cmdFields_toNat 0 b a op
  have ha := a.isLt
  have hb := b.isLt
  have ho := op.isLt
  have h0 : (0 : Byte).toNat = 0 := rfl
  unfold cmdWord
  omega

theorem Laws.EncodesItsRow.nop : Statement .nop := of_cmdWord _ _ _
theorem Laws.EncodesItsRow.frclr : Statement .frclr := of_cmdWord _ _ _
theorem Laws.EncodesItsRow.setfmt x : Statement (.setfmt x) := of_cmdWord _ _ _
theorem Laws.EncodesItsRow.getfmt : Statement .getfmt := of_cmdWord _ _ _
theorem Laws.EncodesItsRow.setid : Statement .setid := of_cmdWord _ _ _
theorem Laws.EncodesItsRow.getid : Statement .getid := of_cmdWord _ _ _
theorem Laws.EncodesItsRow.setdlc x : Statement (.setdlc x) := of_cmdWord _ _ _
theorem Laws.EncodesItsRow.getdlc : Statement .getdlc := of_cmdWord _ _ _
theorem Laws.EncodesItsRow.getsize : Statement .getsize := of_cmdWord _ _ _
theorem Laws.EncodesItsRow.setflg x y : Statement (.setflg x y) := of_cmdWord _ _ _
theorem Laws.EncodesItsRow.getflg x : Statement (.getflg x) := of_cmdWord _ _ _
theorem Laws.EncodesItsRow.getctl : Statement .getctl := of_cmdWord _ _ _
theorem Laws.EncodesItsRow.psetb x y : Statement (.psetb x y) := of_cmdWord _ _ _
theorem Laws.EncodesItsRow.pgetb x : Statement (.pgetb x) := of_cmdWord _ _ _
theorem Laws.EncodesItsRow.psetw x : Statement (.psetw x) := of_cmdWord _ _ _
theorem Laws.EncodesItsRow.pgetw x : Statement (.pgetw x) := of_cmdWord _ _ _
theorem Laws.EncodesItsRow.setts : Statement .setts := of_cmdWord _ _ _
theorem Laws.EncodesItsRow.getsec : Statement .getsec := of_cmdWord _ _ _
theorem Laws.EncodesItsRow.getnsec : Statement .getnsec := of_cmdWord _ _ _
theorem Laws.EncodesItsRow.setusr : Statement .setusr := of_cmdWord _ _ _
theorem Laws.EncodesItsRow.getusr : Statement .getusr := of_cmdWord _ _ _
theorem Laws.EncodesItsRow.setmrk : Statement .setmrk := of_cmdWord _ _ _
theorem Laws.EncodesItsRow.getmrk : Statement .getmrk := of_cmdWord _ _ _
theorem Laws.EncodesItsRow.d2s x y : Statement (.d2s x y) := of_cmdWord _ _ _
theorem Laws.EncodesItsRow.s2d x y : Statement (.s2d x y) := of_cmdWord _ _ _
theorem Laws.EncodesItsRow.mskid x : Statement (.mskid x) := of_cmdWord _ _ _
theorem Laws.EncodesItsRow.enc : Statement .enc := of_cmdWord _ _ _
theorem Laws.EncodesItsRow.dec : Statement .dec := of_cmdWord _ _ _
theorem Laws.EncodesItsRow.wclr : Statement .wclr := of_cmdWord _ _ _
theorem Laws.EncodesItsRow.wpush x : Statement (.wpush x) := of_cmdWord _ _ _
theorem Laws.EncodesItsRow.wrd x : Statement (.wrd x) := of_cmdWord _ _ _
theorem Laws.EncodesItsRow.wwr x y : Statement (.wwr x y) := of_cmdWord _ _ _
theorem Laws.EncodesItsRow.getwlen : Statement .getwlen := of_cmdWord _ _ _
theorem Laws.EncodesItsRow.finit : Statement .finit := of_cmdWord _ _ _
theorem Laws.EncodesItsRow.frel : Statement .frel := of_cmdWord _ _ _
theorem Laws.EncodesItsRow.mbcfg x y z : Statement (.mbcfg x y z) := of_cmdWord _ _ _
theorem Laws.EncodesItsRow.mbrd x y : Statement (.mbrd x y) := of_cmdWord _ _ _
theorem Laws.EncodesItsRow.matchId x y : Statement (.matchId x y) := of_cmdWord _ _ _
theorem Laws.EncodesItsRow.matchf : Statement .matchf := of_cmdWord _ _ _

end Sys2Proof
end

