-- ==== Sys2Proof/Tests/Slice0.lean ====
section
/-! SUPPORT. Tests of the model. Expected values come from spec/95_test_vectors.md (named by vector or program step) or
from a rule's own example; command words are written out field by field from R80 and R84. Every test is one step or one
command on a small state with four mailbox entries, the `N_MB` of the spec's vectors. The theorems named `witness_…` show
states and operands that meet the hypotheses of each statement. -/

namespace Sys2Proof.Tests

open Sys2Proof Sys2Proof.Machine

/-- The outcome is a next state with the property. -/
def nextIs (o : Host.Outcome State Fault Refusal) (p : State → Bool) : Bool :=
  match o with
  | .next t => p t
  | .fault _ => false
  | .refused _ => false

/-- The outcome is a next state with this code and this `RES`. -/
def gives (o : Host.Outcome State Fault Refusal) (c : Code) (r : Word) : Bool :=
  nextIs o fun t => t.code == c && t.res == r

/-- After reset, four entries. -/
def s0 : State := State.resetWith 4

/-- After reset, with a stale result and a stale code that a failed command must leave or replace. -/
def stale : State := { s0 with res := 0xAB, code := .badMagic }

/-- After reset, with a frame of a format and two operand words. -/
def withFmt (f : Format) (x y : Word) : State := { s0 with fr := { Frame.empty with fmt := f }, arg0 := x, arg1 := y }

/-- The filter table of program P3 after its step 6, and `ARG0`. -/
def p3 (x : Word) : State :=
  { s0 with
    init := true
    arg0 := x
    mb := [⟨true, .receive, .classicStd, 0x100, 0x7FF⟩, ⟨true, .receive, .classicStd, 0x200, 0x700⟩,
      ⟨true, .receive, .classicStd, 0, 0⟩, ⟨true, .transmit, .fdExt, 0x18DAF1AB, 0x1FFFFF00⟩] }

/-- A wire buffer that holds the reset frame's image with some bytes replaced, and a byte count. -/
def wired (n : Byte) (bytes : List (Nat × Byte)) : State :=
  { s0 with
    wlen := n
    wb := bytes.foldl (fun w b => putByte w b.1 b.2) (putByte (putByte (Vector.replicate 96 0) 94 0xCA) 95 0x01) }

/-! ### Well-formedness: a term that each check refuses, and the boundary it accepts -/

theorem test_wf_setflg : Instr.wellFormed (.setflg 4 true) = false ∧ Instr.wellFormed (.setflg 7 true) = true := by decide
theorem test_wf_getflg : Instr.wellFormed (.getflg 5) = false ∧ Instr.wellFormed (.getflg 0) = true := by decide
theorem test_wf_psetb : Instr.wellFormed (.psetb 64 1) = false ∧ Instr.wellFormed (.psetb 63 1) = true := by decide
theorem test_wf_pgetb : Instr.wellFormed (.pgetb 64) = false ∧ Instr.wellFormed (.pgetb 63) = true := by decide
theorem test_wf_psetw : Instr.wellFormed (.psetw 61) = false ∧ Instr.wellFormed (.psetw 60) = true := by decide
theorem test_wf_pgetw : Instr.wellFormed (.pgetw 61) = false ∧ Instr.wellFormed (.pgetw 60) = true := by decide
theorem test_wf_wrd : Instr.wellFormed (.wrd 96) = false ∧ Instr.wellFormed (.wrd 95) = true := by decide
theorem test_wf_wwr : Instr.wellFormed (.wwr 96 0) = false ∧ Instr.wellFormed (.wwr 95 0) = true := by decide
theorem test_wf_mbrd : Instr.wellFormed (.mbrd 0 .illegal) = false ∧ Instr.wellFormed (.mbrd 255 .ctrl) = true := by decide

/-! ### Decoding: words written out as `C ++ B ++ A ++ OP`, one or more per constructor -/

theorem test_decode_control_and_format :
    (decode (0x00#8 ++ 0b00000000#8 ++ 0b00000000#8 ++ 0b00000000#8)).toOption = some .nop ∧
    (decode (0xFF#8 ++ 0xFF#8 ++ 0xFF#8 ++ 0b00000000#8)).toOption = some .nop ∧
    (decode (0x00#8 ++ 0x00#8 ++ 0x00#8 ++ 0b00000001#8)).toOption = some .frclr ∧
    (decode (0x00#8 ++ 0b00000011#8 ++ 0x00#8 ++ 0b00000010#8)).toOption = some (.setfmt .fdExt) ∧
    (decode (0x00#8 ++ 0b00000010#8 ++ 0x00#8 ++ 0b00000010#8)).toOption = some (.setfmt .fdStd) ∧
    (decode (0x00#8 ++ 0b00000001#8 ++ 0x00#8 ++ 0b00000010#8)).toOption = some (.setfmt .classicExt) ∧
    (decode (0x00#8 ++ 0x00#8 ++ 0x00#8 ++ 0b00000011#8)).toOption = some .getfmt := by decide

theorem test_decode_identifier_and_dlc :
    (decode (0x00#8 ++ 0x00#8 ++ 0x00#8 ++ 0b00000100#8)).toOption = some .setid ∧
    (decode (0x00#8 ++ 0x00#8 ++ 0x00#8 ++ 0b00000101#8)).toOption = some .getid ∧
    (decode (0x00#8 ++ 0x00#8 ++ 0b11001000#8 ++ 0b00000110#8)).toOption = some (.setdlc 200) ∧
    (decode (0x00#8 ++ 0x00#8 ++ 0x00#8 ++ 0b00000111#8)).toOption = some .getdlc ∧
    (decode (0x00#8 ++ 0x00#8 ++ 0x00#8 ++ 0b00001000#8)).toOption = some .getsize := by decide

theorem test_decode_flags :
    (decode (0x00#8 ++ 0b00000001#8 ++ 0b00000110#8 ++ 0b00001001#8)).toOption = some (.setflg 6 true) ∧
    (decode (0x00#8 ++ 0b11111110#8 ++ 0b00000011#8 ++ 0b00001001#8)).toOption = some (.setflg 3 false) ∧
    (decode (0x00#8 ++ 0x00#8 ++ 0b00000111#8 ++ 0b00001010#8)).toOption = some (.getflg 7) ∧
    (decode (0x00#8 ++ 0x00#8 ++ 0x00#8 ++ 0b00001011#8)).toOption = some .getctl := by decide

theorem test_decode_payload :
    (decode (0x00#8 ++ 0b00110011#8 ++ 0b00000010#8 ++ 0b00001100#8)).toOption = some (.psetb 2 0x33) ∧
    (decode (0x00#8 ++ 0x00#8 ++ 0b00111111#8 ++ 0b00001101#8)).toOption = some (.pgetb 63) ∧
    (decode (0x00#8 ++ 0x00#8 ++ 0b00111100#8 ++ 0b00001110#8)).toOption = some (.psetw 60) ∧
    (decode (0x00#8 ++ 0x00#8 ++ 0b00001001#8 ++ 0b00001111#8)).toOption = some (.pgetw 9) := by decide

theorem test_decode_stamp_user_marker :
    (decode (0x00#8 ++ 0x00#8 ++ 0x00#8 ++ 0b00010000#8)).toOption = some .setts ∧
    (decode (0x00#8 ++ 0x00#8 ++ 0x00#8 ++ 0b00010001#8)).toOption = some .getsec ∧
    (decode (0x00#8 ++ 0x00#8 ++ 0x00#8 ++ 0b00010010#8)).toOption = some .getnsec ∧
    (decode (0x00#8 ++ 0x00#8 ++ 0x00#8 ++ 0b00010011#8)).toOption = some .setusr ∧
    (decode (0x00#8 ++ 0x00#8 ++ 0x00#8 ++ 0b00010100#8)).toOption = some .getusr ∧
    (decode (0x00#8 ++ 0x00#8 ++ 0x00#8 ++ 0b00010101#8)).toOption = some .setmrk ∧
    (decode (0x00#8 ++ 0x00#8 ++ 0x00#8 ++ 0b00010110#8)).toOption = some .getmrk := by decide

theorem test_decode_conversion :
    (decode (0x00#8 ++ 0b00000001#8 ++ 0b00001001#8 ++ 0b00100000#8)).toOption = some (.d2s 9 true) ∧
    (decode (0x00#8 ++ 0b00000001#8 ++ 0b00010100#8 ++ 0b00100001#8)).toOption = some (.s2d 20 true) ∧
    (decode (0x00#8 ++ 0b11111101#8 ++ 0x00#8 ++ 0b00100010#8)).toOption = some (.mskid .classicExt) := by decide

theorem test_decode_wire :
    (decode (0x00#8 ++ 0x00#8 ++ 0x00#8 ++ 0b00110000#8)).toOption = some .enc ∧
    (decode (0x00#8 ++ 0x00#8 ++ 0x00#8 ++ 0b00110001#8)).toOption = some .dec ∧
    (decode (0x00#8 ++ 0x00#8 ++ 0x00#8 ++ 0b00110010#8)).toOption = some .wclr ∧
    (decode (0x00#8 ++ 0x00#8 ++ 0b10101011#8 ++ 0b00110011#8)).toOption = some (.wpush 0xAB) ∧
    (decode (0x00#8 ++ 0x00#8 ++ 0b01011110#8 ++ 0b00110100#8)).toOption = some (.wrd 94) ∧
    (decode (0x00#8 ++ 0b11001010#8 ++ 0b01011110#8 ++ 0b00110101#8)).toOption = some (.wwr 94 0xCA) ∧
    (decode (0x00#8 ++ 0x00#8 ++ 0x00#8 ++ 0b00110110#8)).toOption = some .getwlen := by decide

theorem test_decode_filter :
    (decode (0x00#8 ++ 0x00#8 ++ 0x00#8 ++ 0b01000000#8)).toOption = some .finit ∧
    (decode (0x00#8 ++ 0x00#8 ++ 0x00#8 ++ 0b01000001#8)).toOption = some .frel ∧
    (decode (0x00#8 ++ 0b00000111#8 ++ 0b00000011#8 ++ 0b01000010#8)).toOption = some (.mbcfg 3 .fdExt .transmit) ∧
    (decode (0x00#8 ++ 0b00000010#8 ++ 0b00000011#8 ++ 0b01000011#8)).toOption = some (.mbrd 3 .ctrl) ∧
    (decode (0x00#8 ++ 0b00000101#8 ++ 0x00#8 ++ 0b01000100#8)).toOption = some (.matchId .classicExt .transmit) ∧
    (decode (0x00#8 ++ 0x00#8 ++ 0x00#8 ++ 0b01000101#8)).toOption = some .matchf := by decide

/-- The first and last opcode of each undefined range of R83. -/
theorem test_decode_undefined :
    [0x17, 0x1F, 0x23, 0x2F, 0x37, 0x3F, 0x46, 0xFF].all (fun w => decodeTableWord 32 w == none) = true := by decide

/-- A row of fewer bits: the missing bits are zero. -/
theorem test_decode_short_row : decodeTableWord 8 0x44 = some (.matchId .classicStd .receive) := by decide

/-! ### One command each -/

theorem test_nop : gives (exec .nop stale) .ok 0xAB = true := by decide
theorem test_frclr : nextIs (exec .frclr (withFmt .fdExt 7 0)) (fun t => t.fr.fmt == .classicStd && t.arg0 == 7) = true := by decide
theorem test_setfmt_clears_remote :
    nextIs (exec (.setfmt .fdExt) { s0 with fr := { Frame.empty with remote := true } })
      (fun t => t.fr.fmt == .fdExt && !t.fr.remote) = true := by decide
theorem test_setfmt_narrows :
    nextIs (exec (.setfmt .classicStd)
        { s0 with fr := { Frame.empty with fmt := .fdExt, id := 0x1ABCDE01, brs := true, dlc := 9 } })
      (fun t => t.fr.id == 0x601 && !t.fr.brs && t.fr.dlc == 9) = true := by decide
theorem test_getfmt : gives (exec .getfmt (withFmt .fdStd 0 0)) .ok 2 = true := by decide
theorem test_setid_standard :
    nextIs (exec .setid (withFmt .classicStd 0x800 0)) (fun t => t.fr.id == 0) = true := by decide
theorem test_setid_extended :
    nextIs (exec .setid (withFmt .classicExt 0xFFFFFFFF 0)) (fun t => t.fr.id == 0x1FFFFFFF) = true := by decide
theorem test_getid :
    gives (exec .getid { s0 with fr := { Frame.empty with fmt := .classicExt, id := 0x1ABCDE01 } }) .ok 0x1ABCDE01 =
      true := by decide
theorem test_setdlc : nextIs (exec (.setdlc 255) s0) (fun t => t.fr.dlc == 255) = true := by decide
theorem test_getdlc : gives (exec .getdlc { s0 with fr := { Frame.empty with dlc := 200 } }) .ok 200 = true := by decide
theorem test_getsize_classic :
    gives (exec .getsize { s0 with fr := { Frame.empty with dlc := 9 } }) .ok 0 = true := by decide
theorem test_getsize_fd :
    gives (exec .getsize { s0 with fr := { Frame.empty with fmt := .fdStd, dlc := 9 } }) .ok 12 = true := by decide
theorem test_setflg_no_op :
    nextIs (exec (.setflg 2 true) (withFmt .fdStd 0 0)) (fun t => t.code == .ok && !t.fr.remote) = true := by decide
theorem test_setflg_param :
    nextIs (exec (.setflg 5 true) stale) (fun t => t.code == .param && t.res == 0xAB) = true := by decide
theorem test_getflg_param : gives (exec (.getflg 4) stale) .param 0xAB = true := by decide
theorem test_getflg_esi :
    gives (exec (.getflg 7) { s0 with fr := { Frame.empty with fmt := .fdStd, esi := true } }) .ok 1 = true := by decide
theorem test_getctl :
    gives (exec .getctl { s0 with fr := { Frame.empty with fmt := .fdExt, overrun := true, brs := true, esi := true } })
      .ok 0xCB = true := by decide
theorem test_psetb :
    nextIs (exec (.psetb 63 0xAB) s0) (fun t => byteAt t.fr.payload 63 == 0xAB && byteAt t.fr.payload 62 == 0) = true := by
  decide
theorem test_psetb_param : gives (exec (.psetb 64 1) stale) .param 0xAB = true := by decide
theorem test_pgetb_param : gives (exec (.pgetb 64) stale) .param 0xAB = true := by decide
theorem test_psetw :
    nextIs (exec (.psetw 60) (withFmt .classicStd 0x01020304 0))
      (fun t => byteAt t.fr.payload 60 == 0x01 && byteAt t.fr.payload 63 == 0x04) = true := by decide
theorem test_psetw_param :
    nextIs (exec (.psetw 61) (withFmt .classicStd 1 0)) (fun t => t.code == .param && byteAt t.fr.payload 61 == 0) =
      true := by decide
theorem test_pgetw :
    gives (exec (.pgetw 1) { s0 with fr := { Frame.empty with
      payload := putByte (putByte (Vector.replicate 64 0) 1 0x22) 4 0x55 } }) .ok 0x22000055 = true := by decide
theorem test_pgetw_param : gives (exec (.pgetw 61) stale) .param 0xAB = true := by decide
theorem test_setts :
    nextIs (exec .setts (withFmt .classicStd 1 1000)) (fun t => t.fr.tsSec == 1 && t.fr.tsNsec == 1000) = true := by decide
theorem test_getsec : gives (exec .getsec { s0 with fr := { Frame.empty with tsSec := 1, tsNsec := 1000 } }) .ok 1 =
    true := by decide
theorem test_getnsec : gives (exec .getnsec { s0 with fr := { Frame.empty with tsSec := 1, tsNsec := 1000 } }) .ok 1000 =
    true := by decide
theorem test_setusr :
    nextIs (exec .setusr (withFmt .classicStd 0x12345678 0)) (fun t => t.fr.user == 0x12345678 && t.fr.marker == 0) =
      true := by decide
theorem test_getusr : gives (exec .getusr { s0 with fr := { Frame.empty with user := 5, marker := 6 } }) .ok 5 = true := by
  decide
theorem test_setmrk :
    nextIs (exec .setmrk (withFmt .classicStd 0xDEADBEEF 0)) (fun t => t.fr.marker == 0xDEADBEEF && t.fr.user == 0) =
      true := by decide
theorem test_getmrk : gives (exec .getmrk { s0 with fr := { Frame.empty with user := 5, marker := 6 } }) .ok 6 = true := by
  decide
theorem test_d2s :
    gives (exec (.d2s 13 true) s0) .ok 32 = true ∧ gives (exec (.d2s 9 false) s0) .ok 0 = true ∧
    gives (exec (.d2s 16 true) s0) .ok 0 = true := by decide
theorem test_s2d :
    gives (exec (.s2d 12 true) s0) .ok 9 = true ∧ gives (exec (.s2d 13 true) s0) .ok 10 = true ∧
    gives (exec (.s2d 255 true) s0) .ok 15 = true ∧ gives (exec (.s2d 9 false) s0) .ok 8 = true := by decide
theorem test_mskid :
    gives (exec (.mskid .fdStd) (withFmt .classicExt 0x12345678 0)) .ok 0x678 = true ∧
    gives (exec (.mskid .fdExt) (withFmt .classicStd 0xFFFFFFFF 0)) .ok 0x1FFFFFFF = true := by decide
theorem test_enc_head :
    nextIs (exec .enc { withFmt .classicStd 0 0 with
        wlen := 7
        fr := { Frame.empty with id := 0x123, dlc := 12, payload := putByte (Vector.replicate 64 0) 0 0x77 } })
      (fun t => byteAt t.wb 2 == 0x01 && byteAt t.wb 3 == 0x23 && byteAt t.wb 4 == 0x0C && byteAt t.wb 6 == 0 &&
        t.wlen == 96) = true := by decide
theorem test_enc_tail :
    nextIs (exec .enc { s0 with fr := { Frame.empty with tsSec := 0x01020304, marker := 0x0D0E0F10 } })
      (fun t => byteAt t.wb 70 == 0x01 && byteAt t.wb 82 == 0x0D && byteAt t.wb 85 == 0x10 && byteAt t.wb 94 == 0xCA &&
        byteAt t.wb 95 == 0x01) = true := by decide
theorem test_dec_fields :
    nextIs (exec .dec (wired 96 [(0, 0xFF), (2, 0x01), (3, 0x23), (4, 0x02), (5, 0x34), (90, 0x5A)]))
      (fun t => t.code == .ok && t.fr.id == 0x123 && t.fr.remote && !t.fr.overrun && t.fr.dlc == 2) = true := by decide +kernel
theorem test_dec_payload :
    nextIs (exec .dec (wired 96 [(4, 0x02), (5, 0x06), (6, 0xAA), (8, 0xCC)]))
      (fun t => byteAt t.fr.payload 0 == 0xAA && byteAt t.fr.payload 2 == 0) = true := by decide +kernel
theorem test_dec_errors :
    gives (exec .dec (wired 97 [])) .badLength 0 = true ∧ gives (exec .dec (wired 95 [(94, 0)])) .badLength 0 = true ∧
    gives (exec .dec (wired 96 [(94, 0x01), (95, 0xCA)])) .badMagic 0 = true := by decide
theorem test_wclr :
    nextIs (exec .wclr (wired 96 [])) (fun t => t.wlen == 0 && byteAt t.wb 94 == 0xCA) = true := by decide
theorem test_wpush_stores :
    nextIs (exec (.wpush 0xAB) s0) (fun t => t.wlen == 1 && byteAt t.wb 0 == 0xAB) = true := by decide
theorem test_wpush_saturates :
    nextIs (exec (.wpush 2) (wired 255 [])) (fun t => t.wlen == 255 && byteAt t.wb 95 == 0x01) = true ∧
    nextIs (exec (.wpush 2) (wired 96 [])) (fun t => t.wlen == 97 && byteAt t.wb 95 == 0x01) = true := by decide
theorem test_wrd : gives (exec (.wrd 94) (wired 0 [])) .ok 0xCA = true := by decide
theorem test_wrd_param : gives (exec (.wrd 96) stale) .param 0xAB = true := by decide
theorem test_wwr : nextIs (exec (.wwr 95 0x5A) s0) (fun t => byteAt t.wb 95 == 0x5A && t.wlen == 0) = true := by decide
theorem test_wwr_param : gives (exec (.wwr 96 0) stale) .param 0xAB = true := by decide
theorem test_getwlen : gives (exec .getwlen (wired 97 [])) .ok 0x61 = true := by decide
theorem test_finit :
    nextIs (exec .finit s0) (fun t => statusWord t == 0x00010000) = true ∧
    nextIs (exec .finit (p3 0)) (fun t => statusWord t == 0x00010005 && t.mb == (p3 0).mb) = true := by decide
theorem test_frel :
    nextIs (exec .frel (p3 0)) (fun t => statusWord t == 0 && t.mb == s0.mb) = true ∧
    nextIs (exec .frel s0) (fun t => statusWord t == 4) = true := by decide
theorem test_mbcfg :
    nextIs (exec (.mbcfg 2 .classicStd .receive) { p3 0xABC with arg1 := 0xFFFFF800 })
      (fun t => t.mb[2]? == some ⟨true, .receive, .classicStd, 0x2BC, 0xFFFFF800⟩ && t.mb[1]? == (p3 0).mb[1]?) = true := by
  decide
theorem test_mbcfg_codes :
    gives (exec (.mbcfg 4 .classicStd .receive) (p3 0)) .buffer 0 = true ∧
    gives (exec (.mbcfg 255 .classicStd .receive) s0) .initMissing 0 = true := by decide
theorem test_mbrd :
    gives (exec (.mbrd 3 .id) (p3 0)) .ok 0x18DAF1AB = true ∧ gives (exec (.mbrd 3 .mask) (p3 0)) .ok 0x1FFFFF00 = true ∧
    gives (exec (.mbrd 3 .ctrl) (p3 0)) .ok 0x0F = true := by decide
theorem test_mbrd_order :
    gives (exec (.mbrd 200 .illegal) s0) .initMissing 0 = true ∧
    gives (exec (.mbrd 200 .illegal) (p3 0)) .buffer 0 = true ∧
    gives (exec (.mbrd 0 .illegal) (p3 0)) .param 0 = true := by decide
theorem test_match_hits :
    gives (exec (.matchId .classicStd .receive) (p3 0x900)) .ok 0x80000000 = true ∧
    gives (exec (.matchId .classicStd .receive) (p3 0x2AB)) .ok 0x80000001 = true ∧
    gives (exec (.matchId .fdExt .transmit) (p3 0x18DAF1FF)) .ok 0x80000003 = true := by decide
theorem test_match_misses :
    gives (exec (.matchId .classicExt .receive) (p3 0x100)) .ok 0 = true ∧
    gives (exec (.matchId .classicStd .transmit) (p3 0x100)) .ok 0 = true ∧
    gives (exec (.matchId .classicStd .receive) s0) .initMissing 0 = true := by decide
theorem test_matchf :
    gives (exec .matchf { p3 0x100 with fr := { Frame.empty with id := 0x2AB } }) .ok 0x80000001 = true ∧
    gives (exec .matchf { p3 0 with fr := { Frame.empty with fmt := .fdExt, id := 0x18DAF1AB } }) .ok 0 = true := by decide

/-! ### Steps and port accesses -/

/-- From reset, the stored word is run by the very next step: `S2D 20, 1` gives 11 (R104). -/
theorem test_withFetchWord : gives (step (s0.withFetchWord 32 0x00011421)) .ok 11 = true := by decide
/-- Undefined opcode 0x17 (X2). -/
theorem test_undefined_step :
    gives (step { stale with pending := [.write .cmd 0x00000017] }) .notSupported 0xAB = true := by decide
/-- A write to a reserved slot is ignored, a read of it returns 0 (X5). -/
theorem test_reserved_slots :
    gives (step { stale with pending := [.write .reserved5 0x1234] }) .badMagic 0xAB = true ∧
    nextIs (step { stale with pending := [.read .reserved7] }) (fun t => t.reads == [0]) = true := by decide
/-- `WR RES` changes nothing (X6). -/
theorem test_write_res :
    nextIs (step { stale with pending := [.write .res 0x55] }) (fun t => t.res == 0xAB) = true := by decide
/-- The reset input (R400). -/
theorem test_reset_input :
    nextIs (step { p3 0x100 with pending := [.reset] }) (fun t => t.arg0 == 0 && statusWord t == 0 && t.mb == s0.mb) = true := by
  decide
/-- `LDID` puts the format first (R90). -/
theorem test_ldid :
    assembleAll (PseudoLine.expand (.ldid 1 0x12345678)) =
      some [.write .cmd 0x00010002, .write .arg0 0x12345678, .write .cmd 0x00000004] := by decide
/-- Operands that do not fit are refused (R89). -/
theorem test_assembler_refuses :
    assemble (.setfmt 4) = none ∧ assemble (.setflg 3 2) = none ∧ assemble (.wpush 256) = none := by decide

/-! ### Witnesses: for each statement with hypotheses, states and operands that meet them -/

/-- The reset state with these actions to come. -/
def todo (l : List HostAction) : State := { s0 with pending := l }

theorem todo_pending (l : List HostAction) : (todo l).pending = l := rfl

/-- The frame of `todo` and `s0` meets I1 to I3. -/
theorem frameInv_empty : FrameInv Frame.empty := ⟨by decide, by decide, by decide⟩

/-- A frame that holds two of the flags, and a byte past its size. -/
def busyFrame : Frame :=
  { Frame.empty with fmt := .fdExt, id := 0x1FFFFFFF, brs := true, dlc := 9, payload := putByte (Vector.replicate 64 7) 12 8 }

theorem frameInv_busy : FrameInv busyFrame := ⟨by decide, by decide, by decide⟩

theorem blockInv_s0 (l : List HostAction) : BlockInv (todo l) := by
  refine ⟨frameInv_empty, show 1 ≤ 4 by decide, show 4 ≤ 256 by decide, ?_, ?_⟩
  · intro e he
    rw [List.eq_of_mem_replicate (show e ∈ List.replicate 4 Mailbox.empty from he)]
    exact ⟨by decide, fun _ => rfl⟩
  · intro _ e he
    exact List.eq_of_mem_replicate (show e ∈ List.replicate 4 Mailbox.empty from he)

/-- A configured table, a frame with flags, and these actions to come. -/
def busy (l : List HostAction) : State := { p3 0x100 with fr := busyFrame, pending := l }

theorem blockInv_busy (l : List HostAction) : BlockInv (busy l) := by
  refine ⟨frameInv_busy, show 1 ≤ 4 by decide, show 4 ≤ 256 by decide, ?_, fun h => nomatch h⟩
  intro e he
  simp only [busy, p3, List.mem_cons, List.not_mem_nil, or_false] at he
  rcases he with rfl | rfl | rfl | rfl <;> exact ⟨by decide, by decide⟩

theorem witness_EveryStepKeepsTheInvariant :
    (∃ t, BlockInv (busy [.write .cmd 0x00000041]) ∧ step (busy [.write .cmd 0x00000041]) = .next t ∧ t.init = false) ∧
    (∃ t, BlockInv (todo [.write .cmd 0x00000040]) ∧ step (todo [.write .cmd 0x00000040]) = .next t ∧ t.init = true) ∧
    ∃ t, BlockInv (busy [.reset]) ∧ step (busy [.reset]) = .next t :=
  ⟨⟨_, blockInv_busy _, rfl, rfl⟩, ⟨_, blockInv_s0 _, rfl, rfl⟩, _, blockInv_busy _, rfl⟩

theorem witness_ResetInputClearsTheWholeBlock : (busy [.reset, .read .res]).pending = .reset :: [.read .res] := rfl

theorem witness_SoftwareClearsComparedWithReset :
    (todo []).init = false ∧ (busy []).init = true ∧
    (∃ t u, BlockInv (todo []) ∧ exec .frclr (todo []) = .next t ∧ exec .wclr t = .next u) ∧
    ∃ t u, BlockInv (busy []) ∧ exec .frclr (busy []) = .next t ∧ exec .wclr t = .next u :=
  ⟨rfl, rfl, ⟨_, _, blockInv_s0 _, rfl, rfl⟩, _, _, blockInv_busy _, rfl, rfl⟩

theorem witness_ReservedBitsAreIgnored :
    (0x00FD0022 : Word) &&& usedBits (opField 0x00FD0022) = 0x7F01AA22 &&& usedBits (opField 0x7F01AA22) ∧
    (0xFFFFFF00 : Word) &&& usedBits (opField 0xFFFFFF00) = 0 &&& usedBits (opField 0) ∧
    (0xFF0F0342 : Word) &&& usedBits (opField 0xFF0F0342) = 0x00070342 &&& usedBits (opField 0x00070342) := by decide

theorem witness_DecodingIsTotalAndByOpcode :
    ([0x17, 0x1F, 0x23, 0x2F, 0x37, 0x3F, 0x46, 0xFF].all fun op => (decode (0xABCDEF00 ||| op)).toOption == none) = true ∧
    ([0x00, 0x16, 0x20, 0x22, 0x30, 0x36, 0x40, 0x45].all fun op => (decode (0xABCDEF00 ||| op)).toOption != none) = true ∧
    (∀ op ∈ ([0x17, 0x1F, 0x23, 0x2F, 0x37, 0x3F, 0x46, 0xFF] : List Byte), undefinedOp op) ∧
    (∀ op ∈ ([0x00, 0x16, 0x20, 0x22, 0x30, 0x36, 0x40, 0x45] : List Byte), ¬ undefinedOp op) ∧
    (decode 0xFF03FF02).toOption = some (.setfmt .fdExt) ∧ tableOpcode (.setfmt .fdExt) = (opField 0xFF03FF02).toNat := by
  unfold undefinedOp
  decide

theorem witness_UndefinedOpcodeOnlyReportsNotSupported :
    (todo [.write .cmd 0xFF]).pending = .write .cmd 0xFF :: [] ∧ undefinedOp (opField 0xFF) := by
  unfold undefinedOp
  decide

theorem witness_AssembledCommandsDecode :
    assemble (.mbrd 255 3) = some [.write .cmd 0x0003FF43] ∧
    assemble (.setts 0xFFFFFFFF 0) = some [.write .arg0 0xFFFFFFFF, .write .arg1 0, .write .cmd 0x00000010] ∧
    (∀ p v, AsmLine.mbrd 255 3 ≠ .wr p v) ∧ ∀ p, AsmLine.mbrd 255 3 ≠ .rd p :=
  ⟨by decide, by decide, fun _ _ h => (nomatch h), fun _ h => (nomatch h)⟩

theorem witness_LdidLoadsFormatThenIdentifier :
    ∃ acts, assembleAll (PseudoLine.expand (.ldid 3 0xFFFFFFFF)) = some acts ∧ acts.length = 3 ∧
      (todo (acts ++ [.read .res])).pending = acts ++ [.read .res] :=
  ⟨_, rfl, rfl, rfl⟩

theorem witness_StepRunsTheDecodedCommand :
    (todo [.write .cmd 0x0033020C]).pending = .write .cmd 0x0033020C :: [] ∧ decode 0x0033020C = .ok (.psetb 2 0x33) :=
  ⟨rfl, rfl⟩

/-- Every slot, read and written; `CMD` is written by the statement about commands. -/
theorem witness_PortAccessesFollowTheAddressMap :
    (∀ p, (todo [.read p]).pending = .read p :: []) ∧ (∀ p v, (todo [.write p v]).pending = .write p v :: []) ∧
    [Slot.ofIndex 0, Slot.ofIndex 1, Slot.ofIndex 2, Slot.ofIndex 3, Slot.ofIndex 4, Slot.ofIndex 5, Slot.ofIndex 6,
      Slot.ofIndex 7] = [.cmd, .arg0, .arg1, .res, .status, .reserved5, .reserved6, .reserved7] :=
  ⟨fun _ => rfl, fun _ _ => rfl, by decide⟩

theorem witness_EveryCommandReportsTheFirstCodeThatApplies : undefinedOp (opField 0x00000046) := by
  unfold undefinedOp
  decide

theorem witness_FailedCommandChangesOnlyTheCode :
    (∃ t, exec (.psetw 61) (busy []) = .next t ∧ t.code ≠ .ok) ∧
    (∃ t, exec (.mbrd 200 .illegal) (busy []) = .next t ∧ t.code ≠ .ok) ∧
    ∃ t, exec .dec (busy []) = .next t ∧ t.code ≠ .ok :=
  ⟨⟨_, rfl, by decide⟩, ⟨_, rfl, by decide⟩, (busy []).setCode .badLength,
    by simp only [exec, execDec]; exact if_pos (by decide), by decide⟩

theorem witness_OnlyResultCommandsWriteRes :
    (∃ t, exec .wclr (busy []) = .next t ∧ producesResult .wclr = false) ∧
    ∃ t, exec (.wrd 96) (busy []) = .next t ∧ producesResult (.wrd 96) = true ∧ t.code ≠ .ok :=
  ⟨⟨_, rfl, rfl⟩, _, rfl, rfl, by decide⟩

theorem witness_NoCommandWritesTheOperandRegisters : ∃ t, exec .setts (busy [.read .res]) = .next t := ⟨_, rfl⟩

theorem witness_OnlyTheNamedCommandsWriteEachUnit :
    ∃ t, exec .nop (busy []) = .next t ∧ writesFrame .nop = false ∧ writesWire .nop = false ∧ writesCount .nop = false ∧
      writesTable .nop = false ∧ writesInit .nop = false :=
  ⟨_, rfl, rfl, rfl, rfl, rfl, rfl⟩

theorem witness_CodecCommandsIgnoreTheFilterTable :
    ∃ t, tableOpcode .getwlen < 0x40 ∧ exec .getwlen (busy []) = .next t :=
  ⟨_, by decide, rfl⟩

theorem witness_InitBitIsSetByFinitAndClearedByFrel :
    (∃ t, step (todo [.write .cmd 0x00000040]) = .next t ∧ t.init ≠ (todo []).init) ∧
    (∃ t, step (busy [.write .cmd 0x00000041]) = .next t ∧ t.init ≠ (busy []).init) ∧
    ∃ t, step (busy [.reset]) = .next t ∧ t.init ≠ (busy []).init :=
  ⟨⟨_, rfl, by decide⟩, ⟨_, rfl, by decide⟩, _, rfl, by decide⟩

theorem witness_FilterCommandsNeedFinit :
    (∃ t, (todo []).init = false ∧ exec .frel (todo []) = .next t ∧ 0x41 ≤ tableOpcode .frel) ∧
    (∃ t, exec .matchf (todo []) = .next t ∧ 0x41 ≤ tableOpcode .matchf) ∧
    (∃ t, exec .nop (todo []) = .next t ∧ tableOpcode .nop ≤ 0x36) ∧
    (∃ t, exec .getwlen (todo []) = .next t ∧ tableOpcode .getwlen ≤ 0x36) ∧
    ∃ t, exec .finit (todo []) = .next t ∧ (0x03 : Byte).toNat < (todo []).mb.length :=
  ⟨⟨_, rfl, rfl, by decide⟩, ⟨_, rfl, by decide⟩, ⟨_, rfl, by decide⟩, ⟨_, rfl, by decide⟩, _, rfl, by decide⟩

theorem witness_OperandRegisterKeepsItsValueAcrossCommands :
    (todo [.write .arg0 5, .write .cmd 0x04, .write .cmd 0xFF, .read .arg0, .read .res]).pending =
      .write .arg0 5 :: [(0x04 : Word), 0xFF].map (HostAction.write .cmd) ++ (.read .arg0 :: [.read .res]) :=
  todo_pending _

/-- Both clauses on the FD size, at the sizes where they meet. -/
theorem witness_SizeToDlcCommandGivesTheSmallestFit : (0x40 : Byte).toNat ≤ 64 ∧ 64 < (0x41 : Byte).toNat := by decide

theorem witness_ConversionLaws :
    (8 : Byte).toNat ≤ 8 ∧ (15 : Byte).toNat ≤ 15 ∧ (64 : Byte).toNat ≤ 64 ∧ Format.fdStd.isExt = false ∧
    Format.classicExt.isExt = true := by decide

theorem witness_SetfmtReformatsTheFrame : FrameInv (busy []).fr := frameInv_busy

/-- The first positions after and between the settable flags. -/
theorem witness_SetflgWritesOnlyValidFlags :
    ([0, 1, 4, 5, 8, 255] : List Byte).all (fun a => decide (a.toNat ∉ [2, 3, 6, 7])) = true := by decide

theorem witness_ControlByteReads :
    ([0, 1, 2, 3, 6, 7] : List Byte).all (fun a => decide (a.toNat ∈ [0, 1, 2, 3, 6, 7])) = true ∧
    ([4, 5, 8, 255] : List Byte).all (fun a => decide (a.toNat ∉ [0, 1, 2, 3, 6, 7])) = true := by decide

theorem witness_PayloadByteAccess : (63 : Byte).toNat < 64 ∧ 64 ≤ (64 : Byte).toNat := by decide

theorem witness_PayloadWordAccess :
    (60 : Byte).toNat ≤ 60 ∧ 60 < (61 : Byte).toNat ∧ (12 < (9 : Byte).toNat ∨ (9 : Byte).toNat + 4 ≤ 13) := by decide

theorem witness_MixedWidthAccessIsBigEndian :
    ∃ t, (60 : Byte).toNat ≤ 60 ∧ exec (.psetw 60) (busy []) = .next t := ⟨_, by decide, rfl⟩

theorem witness_FormatBeforeFlags :
    FrameInv (todo []).fr ∧ ((todo []).fr.fmt = .classicStd ∨ (todo []).fr.fmt = .classicExt) ∧
    FrameInv { Frame.empty with fmt := .classicExt, remote := true } :=
  ⟨frameInv_empty, .inl rfl, by decide, by decide, by decide⟩

theorem witness_DlcAndPayloadOrderDoesNotMatter :
    (∃ a b, Instr.psetb 63 1 = .psetb a b) ∧ (∃ a, Instr.psetw 60 = .psetw a) ∧ 12 < 64 ∧
    listedSize (9 : Byte).toNat busyFrame.fmt.isFd ≤ 12 :=
  ⟨⟨63, 1, rfl⟩, ⟨60, rfl⟩, by decide, by decide⟩

theorem witness_DecReadsTheWireImage :
    (wired 95 []).wlen.toNat ≠ 96 ∧ (wired 97 []).wlen.toNat ≠ 96 ∧
    ((wired 96 [(94, 0)]).wlen.toNat = 96 ∧ byteAt (wired 96 [(94, 0)]).wb 94 ≠ 0xCA) ∧
    ((wired 96 [(95, 0)]).wlen.toNat = 96 ∧ byteAt (wired 96 [(95, 0)]).wb 95 ≠ 0x01) ∧
    (wired 96 []).wlen.toNat = 96 ∧ byteAt (wired 96 []).wb 94 = 0xCA ∧ byteAt (wired 96 []).wb 95 = 0x01 := by decide

theorem witness_WireByteAccess : (95 : Byte).toNat < 96 ∧ 96 ≤ (96 : Byte).toNat := by decide

theorem dec_next (s : State) : ∃ t, exec .dec s = .next t := by
  simp only [exec, execDec]
  split
  · exact ⟨_, rfl⟩
  · split <;> exact ⟨_, rfl⟩

theorem enc_next (s : State) : exec .enc s = .next (((s.setWb (ser s.fr)).setWlen 96).setCode .ok) := rfl

theorem witness_EncodeDecodeRoundTrip :
    (∃ t, FrameInv (busy []).fr ∧ exec .enc (busy []) = .next t) ∧
    ∃ t, (wired 96 [(5, 0x34)]).wlen.toNat = 96 ∧ byteAt (wired 96 [(5, 0x34)]).wb 94 = 0xCA ∧
      byteAt (wired 96 [(5, 0x34)]).wb 95 = 0x01 ∧ exec .dec (wired 96 [(5, 0x34)]) = .next t := by
  obtain ⟨t, h⟩ := dec_next (wired 96 [(5, 0x34)])
  exact ⟨⟨_, frameInv_busy, enc_next _⟩, t, by decide, by decide, by decide, h⟩

theorem witness_EncLeaksNoHeldPayloadByte :
    ∃ t t', { busyFrame with payload := Vector.replicate 64 7 } = { (busy []).fr with payload := Vector.replicate 64 7 } ∧
      (∀ k < listedSize (busy []).fr.dlc.toNat (busy []).fr.fmt.isFd,
        byteAt (Vector.replicate 64 (7 : Byte)) k = byteAt (busy []).fr.payload k) ∧
      byteAt (busy []).fr.payload 12 ≠ 7 ∧ exec .enc (busy []) = .next t ∧
      exec .enc { todo [] with fr := { busyFrame with payload := Vector.replicate 64 7 } } = .next t' :=
  ⟨_, _, rfl, by decide, by decide, enc_next _, enc_next _⟩

theorem witness_PushedBytesFillTheWireBuffer :
    (todo [.write .cmd 0x00000032, .write .cmd 0x0000AB33, .read .res]).pending =
      .write .cmd (encode .wclr) :: [(0xAB : Byte)].map (fun b => HostAction.write .cmd (encode (.wpush b))) ++ [.read .res] := by
  decide

/-- Streams for the three clauses: 95 bytes, 96 bytes without the trailer, 96 bytes with it. -/
theorem witness_ByteStreamIsDecodedAsOneInput :
    (List.replicate 95 (0xEE : Byte)).length ≠ 96 ∧ (List.replicate 96 (0xEE : Byte)).length = 96 ∧
    ¬ ((List.replicate 96 (0xEE : Byte))[94]? = some 0xCA ∧ (List.replicate 96 (0xEE : Byte))[95]? = some 0x01) ∧
    (List.replicate 94 (0 : Byte) ++ [0xCA, 0x01]).length = 96 ∧
    (List.replicate 94 (0 : Byte) ++ [0xCA, 0x01])[94]? = some 0xCA ∧
    (List.replicate 94 (0 : Byte) ++ [0xCA, 0x01])[95]? = some 0x01 ∧
    ∀ bs : List Byte, (todo (.write .cmd (encode .wclr) :: bs.map (fun b => HostAction.write .cmd (encode (.wpush b))) ++
        (.write .cmd (encode .dec) :: []))).pending =
      .write .cmd (encode .wclr) :: bs.map (fun b => HostAction.write .cmd (encode (.wpush b))) ++
        (.write .cmd (encode .dec) :: []) :=
  ⟨by simp, by simp, by simp, by simp, by simp, by simp, fun _ => todo_pending _⟩

theorem witness_WireBufferSequencing :
    (wired 95 []).wlen.toNat < 96 ∧
    (∃ t u e, exec (.wpush 1) (todo []) = .next t ∧ exec .enc t = .next u ∧ exec .enc (todo []) = .next e) ∧
    (∃ t u, exec .enc (todo []) = .next t ∧ exec (.wpush 1) t = .next u) ∧
    (∃ t, exec (.wwr 95 1) (todo []) = .next t) ∧ ∃ t, exec .dec (wired 95 []) = .next t :=
  ⟨by decide, ⟨_, _, _, rfl, enc_next _, enc_next _⟩, ⟨_, _, enc_next _, rfl⟩, ⟨_, rfl⟩, dec_next _⟩

theorem witness_FailedDecodeReadsOnlyTheTrailer :
    ∃ t, (wired 95 [(0, 1)]).wlen = (wired 95 []).wlen ∧
      byteAt (wired 95 [(0, 1)]).wb 94 = byteAt (wired 95 []).wb 94 ∧
      byteAt (wired 95 [(0, 1)]).wb 95 = byteAt (wired 95 []).wb 95 ∧
      exec .dec (wired 95 []) = .next t ∧ t.code ≠ .ok :=
  ⟨(wired 95 []).setCode .badLength, by decide, by decide, by decide,
    by simp only [exec, execDec]; exact if_pos (by decide), by decide⟩

theorem witness_FilterTableInitAndRelease : (busy []).init = true ∧ (todo []).init = false := by decide

theorem witness_MbcfgWritesOneEntry :
    (todo []).init = false ∧ (busy []).init = true ∧ (busy []).mb.length ≤ (4 : Byte).toNat ∧
    (3 : Byte).toNat < (busy []).mb.length := by decide

theorem witness_MbrdReadsTheSelectedField :
    (todo []).init = false ∧ (busy []).init = true ∧ (busy []).mb.length ≤ (4 : Byte).toNat ∧
    (busy []).mb[(3 : Byte).toNat]? = some ⟨true, .transmit, .fdExt, 0x18DAF1AB, 0x1FFFFF00⟩ := by decide

/-- A hit that is the first one and not at index 0, and a miss. -/
theorem witness_MatchGivesTheFirstAcceptingEntry :
    (busy []).init = true ∧ (todo []).init = false ∧
    Accepts (busy []).mb[1] 0x2AB .classicStd .receive ∧ ¬ Accepts (busy []).mb[0] 0x2AB .classicStd .receive ∧
    ∀ e ∈ (busy []).mb, ¬ Accepts e 0x100 .classicExt .receive := by
  unfold Accepts
  decide

theorem witness_ExactFilterAcceptsItsIdentifierOnly :
    (∃ t, (busy []).init = true ∧ 0 < (busy []).mb.length ∧ (busy []).mb.length ≤ 256 ∧
      exec (.mbcfg 0 .classicStd .receive) { busy [] with arg1 := 0x7FF } = .next t) ∧
    (∃ t, exec (.mbcfg 0 .fdExt .transmit) { busy [] with arg1 := 0x1FFFFFFF } = .next t) ∧
    (0x7FF : Word) = (if Format.classicStd.isExt then 0x1FFFFFFF else 0x7FF) ∧
    (0x1FFFFFFF : Word) = (if Format.fdExt.isExt then 0x1FFFFFFF else 0x7FF) :=
  ⟨⟨_, rfl, by decide, by decide, rfl⟩, ⟨_, rfl⟩, by decide, by decide⟩

end Sys2Proof.Tests
end

/-! ### The state after reset meets the invariant (R5, R27, R32, R401) -/

namespace Sys2Proof

/-- R5: the table has at least one entry. -/
theorem Config.one_le_nMb : 1 ≤ Config.nMb := Nat.le_add_left 1 _

/-- R5: the table has at most 256 entries. -/
theorem Config.nMb_le : Config.nMb ≤ 256 := Config.lastMailbox.isLt

end Sys2Proof

namespace Sys2Proof.Machine

theorem Frame.empty_inv : FrameInv Frame.empty where
  id_masked := by decide
  fd_not_remote _ := rfl
  classic_no_brs_esi _ := ⟨rfl, rfl⟩

theorem Mailbox.empty_inv : MailboxInv Mailbox.empty where
  id_masked := by decide
  invalid_empty _ := rfl

/-- A table of a size the spec allows whose entries are all zero meets the invariant, whatever `INIT` is. -/
theorem TableInv.of_entries_empty {s : State} (pos : 1 ≤ s.mb.length) (le : s.mb.length ≤ 256)
    (empty : ∀ e ∈ s.mb, e = Mailbox.empty) : TableInv s where
  size_pos := pos
  size_le := le
  entries e he := empty e he ▸ Mailbox.empty_inv
  uninit_empty _ := empty

@[simp] theorem State.resetWith_mb (n : Nat) : (State.resetWith n).mb = List.replicate n Mailbox.empty := rfl

/-- The state after reset meets the invariant for every table size that R5 allows. -/
theorem blockInv_resetWith {n : Nat} (pos : 1 ≤ n) (le : n ≤ 256) : BlockInv (State.resetWith n) where
  frame := Frame.empty_inv
  table := by
    have length_eq : (State.resetWith n).mb.length = n := by simp
    exact .of_entries_empty (by omega) (by omega) fun _ => List.eq_of_mem_replicate

/-- Settles O2: `N_MB` is one of the table sizes that R5 allows. -/
theorem resetMeetsTheInvariant : Obligations.ResetMeetsTheInvariant :=
  blockInv_resetWith Config.one_le_nMb Config.nMb_le

end Sys2Proof.Machine

/-! ### Frame values that meet I1 to I3 (R27) -/

namespace Sys2Proof.Machine

/-- I1 to I3 speak of the identifier, the format and three flags only. -/
theorem FrameInv.of_eq {f g : Frame} (h : FrameInv f) (id : g.id = f.id) (fmt : g.fmt = f.fmt)
    (remote : g.remote = f.remote) (brs : g.brs = f.brs) (esi : g.esi = f.esi) : FrameInv g where
  id_masked := by rw [id, fmt]; exact h.id_masked
  fd_not_remote := by rw [fmt, remote]; exact h.fd_not_remote
  classic_no_brs_esi := by rw [fmt, brs, esi]; exact h.classic_no_brs_esi

/-- R122: a change of format leads to a frame that meets I1 to I3, whatever the frame was. -/
theorem FrameInv.reformat (fr : Frame) (f : Format) : FrameInv (fr.reformat f) where
  id_masked := maskIdentifier_le fr.id f
  fd_not_remote (fd : f.isFd = true) := by simp [Frame.reformat, fd]
  classic_no_brs_esi (classic : f.isFd = false) := by simp [Frame.reformat, classic]

/-- R125: an identifier masked with the held format keeps I1. -/
theorem FrameInv.setId {f : Frame} (h : FrameInv f) (id : Word) :
    FrameInv { f with id := maskIdentifier id f.fmt } where
  id_masked := maskIdentifier_le id f.fmt
  fd_not_remote := h.fd_not_remote
  classic_no_brs_esi := h.classic_no_brs_esi

/-- R131: a flag that is valid in the held format can be written without breaking I2 or I3. -/
theorem FrameInv.putFlag {f : Frame} (h : FrameInv f) {g : CtlFlag} (valid : flagValid g f.fmt = true) (v : Bool) :
    FrameInv (f.putFlag g v) := by
  obtain ⟨id_masked, fd_not_remote, classic_no_brs_esi⟩ := h
  cases g with
  | remote =>
    have classic : f.fmt.isFd = false := by simpa [flagValid] using valid
    exact ⟨id_masked, fun fd => absurd fd (by simp [Frame.putFlag, classic]), classic_no_brs_esi⟩
  | overrun => exact ⟨id_masked, fd_not_remote, classic_no_brs_esi⟩
  | brs | esi =>
    have fd : f.fmt.isFd = true := valid
    exact ⟨id_masked, fd_not_remote, fun classic => absurd classic (by simp [Frame.putFlag, fd])⟩

/-- R173: bit 1 of the control byte says whether the decoded frame is FD. -/
theorem des_isFd (w : Vector Byte 96) : (des w).fmt.isFd = (byteAt w 5).getLsbD 1 := by
  rw [des, Format.isFd_ofCode, BitVec.getLsbD_extractLsb']
  simp

/-- R173: a decoded frame meets I1 to I3, whatever the wire buffer holds. -/
theorem FrameInv.of_des (w : Vector Byte 96) : FrameInv (des w) where
  id_masked := maskIdentifier_le _ _
  fd_not_remote fd := by
    show (!(byteAt w 5).getLsbD 1 && _) = false
    rw [← des_isFd, fd, Bool.not_true, Bool.false_and]
  classic_no_brs_esi classic := by
    show ((byteAt w 5).getLsbD 1 && _) = false ∧ ((byteAt w 5).getLsbD 1 && _) = false
    simp only [← des_isFd, classic, Bool.false_and, and_self]

end Sys2Proof.Machine

/-! ### What a command can do to the state (R84, R300, R302) -/

namespace Sys2Proof.Machine

/-- What a command can do, said once for all of them: report a code and nothing else, write `RES`, write the frame
register, write the wire buffer and its counter, or write the filter table. -/
inductive CommandEffect (s : State) : Instr → State → Prop where
  /-- Any command: an error changes the code only (R302). -/
  | fails {i : Instr} (e : Code) (error : e ≠ .ok) : CommandEffect s i (s.setCode e)
  /-- `NOP`, and `SETFLG` of a flag that the format has not (R131, R230). -/
  | onlyOk {i : Instr} (silent : producesResult i = false) : CommandEffect s i (s.setCode .ok)
  | result {i : Instr} (v : Word) (reports : producesResult i = true) : CommandEffect s i ((s.setRes v).setCode .ok)
  | frame {i : Instr} (f : Frame) (writer : writesFrame i = true) (inv : FrameInv s.fr → FrameInv f) :
      CommandEffect s i ((s.setFr f).setCode .ok)
  | wire {i : Instr} (w : Vector Byte 96) (n : Byte) (buffer : writesWire i = false → w = s.wb)
      (count : writesCount i = false → n = s.wlen) :
      CommandEffect s i (((s.setWb w).setWlen n).setCode .ok)
  | finit (uninit : s.init = false) : CommandEffect s .finit (((s.setMb (clearAll s.mb)).setInit true).setCode .ok)
  | frel (init : s.init = true) : CommandEffect s .frel (((s.setMb (clearAll s.mb)).setInit false).setCode .ok)
  | mbcfg {idx : Byte} {fmt : Format} {dir : Direction} (init : s.init = true) (legal : idx.toNat < s.mb.length) :
      CommandEffect s (.mbcfg idx fmt dir) ((s.setMb (s.mb.set idx.toNat
        { valid := true, dir := dir, fmt := fmt, id := maskIdentifier s.arg0 fmt, mask := s.arg1 })).setCode .ok)

/-- A command that first asks for `INIT` is left to its other branch (R200). -/
theorem whenInit_effect {s : State} {i : Instr} {k : Result}
    (h : s.init = true → ∃ t, k = .next t ∧ CommandEffect s i t) :
    ∃ t, whenInit s k = .next t ∧ CommandEffect s i t := by
  unfold whenInit
  split
  · exact h ‹_›
  · exact ⟨_, rfl, .fails _ nofun⟩

theorem execSetflg_effect (bit : Byte) (val : Bool) (s : State) :
    ∃ t, execSetflg bit val s = .next t ∧ CommandEffect s (.setflg bit val) t := by
  unfold execSetflg
  split
  · exact ⟨_, rfl, .fails _ nofun⟩
  · split
    · exact ⟨_, rfl, .frame _ rfl (·.putFlag ‹_› val)⟩
    · exact ⟨_, rfl, .onlyOk rfl⟩

theorem execDec_effect (s : State) : ∃ t, execDec s = .next t ∧ CommandEffect s .dec t := by
  unfold execDec
  split
  · exact ⟨_, rfl, .fails _ nofun⟩
  · split
    · exact ⟨_, rfl, .fails _ nofun⟩
    · exact ⟨_, rfl, .frame _ rfl fun _ => .of_des s.wb⟩

theorem execMbcfg_effect (idx : Byte) (fmt : Format) (dir : Direction) (s : State) :
    ∃ t, execMbcfg idx fmt dir s = .next t ∧ CommandEffect s (.mbcfg idx fmt dir) t := by
  refine whenInit_effect fun init => ?_
  split
  · exact ⟨_, rfl, .fails _ nofun⟩
  next k check =>
    obtain ⟨rfl, legal⟩ := mailboxIndex_eq_some.1 check
    exact ⟨_, rfl, .mbcfg init legal⟩

theorem execMbrd_effect (idx : Byte) (sel : Selector) (s : State) :
    ∃ t, execMbrd idx sel s = .next t ∧ CommandEffect s (.mbrd idx sel) t := by
  refine whenInit_effect fun _ => ?_
  split
  · exact ⟨_, rfl, .fails _ nofun⟩
  · cases sel with
    | id | mask | ctrl => exact ⟨_, rfl, .result _ rfl⟩
    | illegal => exact ⟨_, rfl, .fails _ nofun⟩

theorem execFinit_eq_next {s t : State} :
    execFinit s = .next t ↔ (s.init = true ∧ t = s.setCode .initFail) ∨
      (s.init = false ∧ t = ((s.setMb (clearAll s.mb)).setInit true).setCode .ok) := by
  unfold execFinit
  cases s.init <;> simp [raise_eq_next, done_eq_next]

/-- Every command completes in every state (R300), with one of the effects above. -/
theorem exec_effect (i : Instr) (s : State) : ∃ t, exec i s = .next t ∧ CommandEffect s i t := by
  cases i with
  | nop => exact ⟨_, rfl, .onlyOk rfl⟩
  | getfmt | getid | getdlc | getsize | getctl | getsec | getnsec | getusr | getmrk | d2s | s2d | mskid | getwlen =>
    exact ⟨_, rfl, .result _ rfl⟩
  | getflg | pgetb | pgetw | wrd =>
    simp only [exec, execGetflg, execPgetb, execPgetw, execWrd]
    split
    · exact ⟨_, rfl, .fails _ nofun⟩
    · exact ⟨_, rfl, .result _ rfl⟩
  | frclr => exact ⟨_, rfl, .frame _ rfl fun _ => Frame.empty_inv⟩
  | setfmt fmt => exact ⟨_, rfl, .frame _ rfl fun _ => .reformat s.fr fmt⟩
  | setid => exact ⟨_, rfl, .frame _ rfl (·.setId s.arg0)⟩
  | setdlc | setts | setusr | setmrk => exact ⟨_, rfl, .frame _ rfl (·.of_eq rfl rfl rfl rfl rfl)⟩
  | psetb | psetw =>
    simp only [exec, execPsetb, execPsetw]
    split
    · exact ⟨_, rfl, .fails _ nofun⟩
    · exact ⟨_, rfl, .frame _ rfl (·.of_eq rfl rfl rfl rfl rfl)⟩
  | setflg bit val => exact execSetflg_effect bit val s
  | dec => exact execDec_effect s
  | enc => exact ⟨_, rfl, .wire _ _ nofun nofun⟩
  | wclr => exact ⟨_, rfl, .wire _ _ (fun _ => rfl) nofun⟩
  | wpush => exact ⟨_, rfl, .wire _ _ nofun nofun⟩
  | wwr off byte =>
    simp only [exec, execWwr]
    split
    · exact ⟨_, rfl, .fails _ nofun⟩
    next k _ => exact ⟨_, rfl, .wire (i := .wwr off byte) (putByte s.wb k byte) s.wlen nofun fun _ => rfl⟩
  | finit =>
    simp only [exec, execFinit]
    split
    · exact ⟨_, rfl, .fails _ nofun⟩
    · exact ⟨_, rfl, .finit (Bool.eq_false_of_not_eq_true ‹_›)⟩
  | frel => exact whenInit_effect fun init => ⟨_, rfl, .frel init⟩
  | mbcfg idx fmt dir => exact execMbcfg_effect idx fmt dir s
  | mbrd idx sel => exact execMbrd_effect idx sel s
  | matchId | matchf => exact whenInit_effect fun _ => ⟨_, rfl, .result _ rfl⟩

theorem effect_of_exec {i : Instr} {s t : State} (h : exec i s = .next t) : CommandEffect s i t := by
  obtain ⟨u, hu, effect⟩ := exec_effect i s
  cases hu.symm.trans h
  exact effect

end Sys2Proof.Machine

/-! ### The invariant (R27, R32, R145, R401) -/

namespace Sys2Proof.Machine

theorem TableInv.of_eq {s t : State} (h : TableInv s) (mb : t.mb = s.mb) (init : t.init = s.init) : TableInv t := by
  obtain ⟨size_pos, size_le, entries, uninit_empty⟩ := h
  constructor <;> simpa only [mb, init]

/-- The invariant speaks of the frame register, the filter table and `INIT` only. -/
theorem BlockInv.of_eq {s t : State} (h : BlockInv s) (fr : t.fr = s.fr) (mb : t.mb = s.mb) (init : t.init = s.init) :
    BlockInv t where
  frame := fr ▸ h.frame
  table := h.table.of_eq mb init

@[simp] theorem length_clearAll (m : List Mailbox) : (clearAll m).length = m.length := List.length_map _

theorem eq_empty_of_mem_clearAll {m : List Mailbox} {e : Mailbox} (h : e ∈ clearAll m) : e = Mailbox.empty := by
  obtain ⟨_, _, rfl⟩ := List.mem_map.1 h
  rfl

/-- R203: an entry configured with a masked identifier meets M1, and M2 since it is valid. -/
theorem MailboxInv.configured (id mask : Word) (fmt : Format) (dir : Direction) :
    MailboxInv { valid := true, dir := dir, fmt := fmt, id := maskIdentifier id fmt, mask := mask } where
  id_masked := maskIdentifier_le id fmt
  invalid_empty := nofun

/-- A table whose entries are all cleared meets the invariant, whatever `INIT` becomes (R201, R202). -/
theorem TableInv.of_mb_eq_clearAll {s t : State} (h : TableInv s) (mb : t.mb = clearAll s.mb) : TableInv t := by
  have length : t.mb.length = s.mb.length := by rw [mb, length_clearAll]
  refine .of_entries_empty (length ▸ h.size_pos) (length ▸ h.size_le) fun e he => ?_
  rw [mb] at he
  exact eq_empty_of_mem_clearAll he

/-- An entry that meets M1 and M2 can replace another one while the table is initialised. -/
theorem TableInv.of_mb_eq_set {s t : State} (h : TableInv s) {k : Nat} {e : Mailbox} (he : MailboxInv e)
    (mb : t.mb = s.mb.set k e) (init : t.init = true) : TableInv t where
  size_pos := by simpa only [mb, List.length_set] using h.size_pos
  size_le := by simpa only [mb, List.length_set] using h.size_le
  entries x hx := by
    rw [mb] at hx
    rcases List.mem_or_eq_of_mem_set hx with old | rfl
    · exact h.entries x old
    · exact he
  uninit_empty uninit := by rw [init] at uninit; cases uninit

/-- R145, R401: every command keeps the invariant. -/
theorem CommandEffect.blockInv {s t : State} {i : Instr} (effect : CommandEffect s i t) (h : BlockInv s) :
    BlockInv t := by
  cases effect with
  | fails | onlyOk | result | wire => exact h.of_eq rfl rfl rfl
  | frame f _ inv => exact ⟨inv h.frame, h.table.of_eq rfl rfl⟩
  | finit | frel => exact ⟨h.frame, h.table.of_mb_eq_clearAll rfl⟩
  | mbcfg init => exact ⟨h.frame, h.table.of_mb_eq_set (.configured ..) rfl init⟩

/-- R400: the reset input leads to a state that meets the invariant, since it keeps the table's size. -/
theorem BlockInv.resetBlock {s : State} (h : BlockInv s) : BlockInv s.resetBlock :=
  (blockInv_resetWith h.table.size_pos h.table.size_le).of_eq rfl rfl rfl

/-- Every action of the host keeps the invariant. -/
theorem perform_keeps_blockInv {a : HostAction} {s t : State} (h : BlockInv s) (ht : perform a s = .next t) :
    BlockInv t := by
  obtain ⟨w, i, -, -, run⟩ | ⟨w, e, -, -, rfl⟩ | ⟨w, -, rfl⟩ | ⟨w, -, rfl⟩ | ⟨p, w, -, -, -, -, rfl⟩ |
    ⟨p, -, rfl⟩ | ⟨-, rfl⟩ := perform_cases ht
  · exact (effect_of_exec run).blockInv h
  · exact h.of_eq rfl rfl rfl
  · exact h.of_eq rfl rfl rfl
  · exact h.of_eq rfl rfl rfl
  · exact h
  · exact h.of_eq rfl rfl rfl
  · exact h.resetBlock

/-- Settles O3: an idle step changes nothing, and every other one performs an action of the host. -/
theorem everyStepKeepsTheInvariant : Obligations.EveryStepKeepsTheInvariant := by
  intro s t h ht
  cases hp : s.pending with
  | nil =>
    rw [step_of_pending_nil hp] at ht
    cases ht
    exact h
  | cons a rest =>
    rw [step_of_pending_cons hp] at ht
    exact perform_keeps_blockInv (s := s.setPending rest) (h.of_eq rfl rfl rfl) ht

end Sys2Proof.Machine

/-! ### What commands leave unchanged (R22, R23, R33) -/

namespace Sys2Proof.Machine

/-- The operand registers and the host's own two lists, which the block only reads. -/
structure SameHostSide (s t : State) : Prop where
  arg0 : t.arg0 = s.arg0
  arg1 : t.arg1 = s.arg1
  pending : t.pending = s.pending
  reads : t.reads = s.reads

/-- R22, R403: a command reads its operands and writes none of them. -/
theorem CommandEffect.sameHostSide {s t : State} {i : Instr} (effect : CommandEffect s i t) : SameHostSide s t := by
  cases effect <;> exact ⟨rfl, rfl, rfl, rfl⟩

/-- R33: the two commands that can change `INIT`. -/
theorem CommandEffect.finit_or_frel_of_init_ne {s t : State} {i : Instr} (effect : CommandEffect s i t)
    (changed : t.init ≠ s.init) : (i = .finit ∧ t.init = true) ∨ (i = .frel ∧ t.init = false) := by
  cases effect with
  | finit => exact .inl ⟨rfl, rfl⟩
  | frel => exact .inr ⟨rfl, rfl⟩
  | fails | onlyOk | result | frame | wire | mbcfg => exact absurd rfl changed

/-- Settles O20: the one effect that writes `RES` is that of a command with a result, and its code is `OK`. -/
theorem onlyResultCommandsWriteRes : Obligations.OnlyResultCommandsWriteRes := by
  intro i s t h noResult
  cases effect_of_exec h with
  | result v reports =>
    rcases noResult with silent | error
    · rw [silent] at reports; cases reports
    · exact absurd rfl error
  | fails | onlyOk | frame | wire | finit | frel | mbcfg => rfl

/-- Settles O21: none of the effects of a command touches the host's side. -/
theorem noCommandWritesTheOperandRegisters : Obligations.NoCommandWritesTheOperandRegisters := by
  intro i s t h
  obtain ⟨arg0, arg1, pending, reads⟩ := (effect_of_exec h).sameHostSide
  exact ⟨arg0, arg1, pending, reads⟩

theorem statusWord_getLsbD_init (s : State) : (statusWord s).getLsbD 16 = s.init := by
  have code_lt : s.code.number.toNat < 2 ^ 16 := lt_trans s.code.number.isLt (by decide)
  rw [BitVec.getLsbD, statusWord_toNat, Nat.add_comm, Nat.testBit_two_pow_mul_add _ code_lt]
  cases s.init <;> rfl

/-- R201: after `FINIT` the `INIT` bit is 1, whether the command set it or found it set. -/
theorem exec_finit_init (s : State) : ∃ t, exec .finit s = .next t ∧ t.init = true := by
  obtain ⟨t, run, -⟩ := exec_effect .finit s
  refine ⟨t, run, ?_⟩
  rcases execFinit_eq_next.1 run with ⟨init, rfl⟩ | ⟨-, rfl⟩
  · exact init
  · rfl

/-- R202: after `FREL` the `INIT` bit is 0, whether the command cleared it or found it clear. -/
theorem exec_frel_init (s : State) : ∃ t, exec .frel s = .next t ∧ t.init = false := by
  obtain ⟨t, run, -⟩ := exec_effect .frel s
  refine ⟨t, run, ?_⟩
  rcases whenInit_eq_next.1 run with ⟨-, released⟩ | ⟨uninit, rfl⟩
  · rw [done_eq_next.1 released]; rfl
  · exact uninit

/-- R33: the actions of the host that can change `INIT`. -/
theorem perform_init_ne {a : HostAction} {s t : State} (h : perform a s = .next t) (changed : t.init ≠ s.init) :
    (∃ w, a = .write .cmd w ∧ decode w = .ok .finit ∧ t.init = true) ∨
    (∃ w, a = .write .cmd w ∧ decode w = .ok .frel ∧ t.init = false) ∨ (a = .reset ∧ t.init = false) := by
  obtain ⟨w, i, rfl, decoded, run⟩ | ⟨w, e, -, -, rfl⟩ | ⟨w, -, rfl⟩ | ⟨w, -, rfl⟩ | ⟨p, w, -, -, -, -, rfl⟩ |
    ⟨p, -, rfl⟩ | ⟨rfl, rfl⟩ := perform_cases h
  · rcases (effect_of_exec run).finit_or_frel_of_init_ne changed with ⟨rfl, set⟩ | ⟨rfl, cleared⟩
    · exact .inl ⟨w, rfl, decoded, set⟩
    · exact .inr (.inl ⟨w, rfl, decoded, cleared⟩)
  · exact absurd rfl changed
  · exact absurd rfl changed
  · exact absurd rfl changed
  · exact absurd rfl changed
  · exact absurd rfl changed
  · exact .inr (.inr ⟨rfl, rfl⟩)

/-- Settles O24: an idle step changes nothing, and of the host's actions only three can change `INIT`. -/
theorem initBitIsSetByFinitAndClearedByFrel : Obligations.InitBitIsSetByFinitAndClearedByFrel := by
  refine ⟨rfl, statusWord_getLsbD_init, exec_finit_init, exec_frel_init, fun s t ht changed => ?_⟩
  cases hp : s.pending with
  | nil =>
    rw [step_of_pending_nil hp] at ht
    cases ht
    exact absurd rfl changed
  | cons a rest =>
    rw [step_of_pending_cons hp] at ht
    rcases perform_init_ne ht changed with ⟨w, rfl, finit⟩ | ⟨w, rfl, frel⟩ | ⟨rfl, cleared⟩
    · exact .inl ⟨w, rest, rfl, finit⟩
    · exact .inr (.inl ⟨w, rest, rfl, frel⟩)
    · exact .inr (.inr ⟨rest, rfl, cleared⟩)

end Sys2Proof.Machine

/-! ### Runs (R20, R300, R409) -/

namespace Sys2Proof.Machine

/-- Every word written to `CMD` completes and leaves the operand registers and the host's lists alone (R22, R85). -/
theorem command_completes (w : Word) (s : State) : ∃ t, command w s = .next t ∧ SameHostSide s t := by
  unfold command
  split
  next i _ =>
    obtain ⟨t, run, effect⟩ := exec_effect i s
    exact ⟨t, run, effect.sameHostSide⟩
  · exact ⟨_, rfl, rfl, rfl, rfl, rfl⟩

/-- Every action of the host completes and takes no other action off its list. -/
theorem perform_completes (a : HostAction) (s : State) : ∃ t, perform a s = .next t ∧ t.pending = s.pending := by
  cases a with
  | read p => exact ⟨_, rfl, rfl⟩
  | reset => exact ⟨_, rfl, rfl⟩
  | write p v =>
    cases p with
    | cmd =>
      obtain ⟨t, run, same⟩ := command_completes v s
      exact ⟨t, run, same.pending⟩
    | arg0 | arg1 | res | status | reserved5 | reserved6 | reserved7 => exact ⟨_, rfl, rfl⟩

/-- Every step completes and takes the first action off the host's list. -/
theorem step_completes (s : State) : ∃ t, step s = .next t ∧ t.pending = s.pending.tail := by
  cases hp : s.pending with
  | nil => exact ⟨s, step_of_pending_nil hp, hp⟩
  | cons a rest =>
    rw [step_of_pending_cons hp]
    exact perform_completes a (s.setPending rest)

/-- Every run completes; `k` steps take the first `k` actions off the host's list. -/
theorem run_completes (k : Nat) (s : State) :
    ∃ t : State, Sys2Proof.core.run k s = .next t ∧ t.pending = s.pending.drop k := by
  induction k generalizing s with
  | zero => exact ⟨s, rfl, rfl⟩
  | succ k ih =>
    obtain ⟨u, first, hu⟩ := step_completes s
    obtain ⟨t, later, ht⟩ := ih u
    refine ⟨t, by rw [run_succ_of_step first, later], ?_⟩
    rw [ht, hu, List.drop_tail]

/-- R409: with nothing to do, a run of any length changes nothing. -/
theorem run_of_pending_nil {s : State} (h : s.pending = []) (k : Nat) : Sys2Proof.core.run k s = .next s := by
  induction k with
  | zero => rfl
  | succ k ih => rw [run_succ_of_step (step_of_pending_nil h), ih]

/-- Settles O17: after as many steps as there are pending actions, all of them are taken off the list. -/
theorem everyRunCompletesAndComesToRest : Obligations.EveryRunCompletesAndComesToRest := by
  intro s
  constructor
  · intro k
    obtain ⟨t, run, -⟩ := run_completes k s
    exact ⟨t, run⟩
  · obtain ⟨t, run, ht⟩ := run_completes s.pending.length s
    rw [List.drop_length] at ht
    exact ⟨t, run, ht, run_of_pending_nil ht⟩

/-- Any list of command words, run one after the other, leaves the operand registers and the host's reads alone. -/
theorem run_commands (ws : List Word) (s : State) (rest : List HostAction)
    (h : s.pending = ws.map (HostAction.write .cmd) ++ rest) :
    ∃ t : State, Sys2Proof.core.run ws.length s = .next t ∧ SameHostSide (s.setPending rest) t := by
  induction ws generalizing s with
  | nil => exact ⟨s, rfl, rfl, rfl, h, rfl⟩
  | cons w ws ih =>
    obtain ⟨u, first, arg0, arg1, pending, reads⟩ :=
      command_completes w (s.setPending (ws.map (HostAction.write .cmd) ++ rest))
    obtain ⟨t, later, same⟩ := ih u pending
    refine ⟨t, ?_, same.arg0.trans arg0, same.arg1.trans arg1, same.pending, same.reads.trans reads⟩
    have step_eq : step s = .next u := (step_of_pending_cons h).trans first
    rw [List.length_cons, run_succ_of_step step_eq, later]

/-- Settles O26: one step stores the word, the commands leave it alone, and one step reads it. -/
theorem operandRegisterKeepsItsValueAcrossCommands : Obligations.OperandRegisterKeepsItsValueAcrossCommands := by
  intro v ws s rest h
  have store : step s = .next ((s.setPending (ws.map (.write .cmd) ++ .read .arg0 :: rest)).setArg0 v) :=
    step_of_pending_cons h
  obtain ⟨u, commands, arg0, arg1, pending, reads⟩ :=
    run_commands ws ((s.setPending _).setArg0 v) (.read .arg0 :: rest) rfl
  have load : step u = .next ((u.setPending rest).recordRead u.arg0) := step_of_pending_cons pending
  refine ⟨(u.setPending rest).recordRead u.arg0, ?_, rfl, congrArg₂ (· ++ [·]) reads arg0, arg0, arg1⟩
  rw [run_succ_of_step store, run_add_of_run commands, run_succ_of_step load, run_zero]

end Sys2Proof.Machine

/-! ### The wire image and held payload bytes (R29, R172) -/

namespace Sys2Proof.Machine

/-- R100: the size of a DLC is the one the spec's tables list. -/
theorem listedSize_eq_dlcToSize (d : Byte) (fd : Bool) : listedSize d.toNat fd = dlcToSize d fd := by
  unfold listedSize dlcToSize
  cases fd with
  | false => simp
  | true =>
    generalize d.toNat = n
    match n with
    | 0 | 1 | 2 | 3 | 4 | 5 | 6 | 7 | 8 | 9 | 10 | 11 | 12 | 13 | 14 | 15 => rfl
    | n + 16 => simp [fdSizes]

/-- R172: a byte of the image does not depend on the payload bytes at or above the size. -/
theorem serByte_withPayload {f : Frame} {p : Vector Byte 64} (agree : ∀ k < f.size, byteAt p k = byteAt f.payload k)
    (k : Nat) : serByte { f with payload := p } k = serByte f k := by
  have payload : (if k - 6 < Frame.size { f with payload := p } then byteAt p (k - 6) else 0) =
      if k - 6 < f.size then byteAt f.payload (k - 6) else 0 := by
    rw [Frame.size_withPayload]
    split
    · exact agree _ ‹_›
    · rfl
  simp only [serByte]
  rw [payload]
  rfl

theorem ser_withPayload {f : Frame} {p : Vector Byte 64} (agree : ∀ k < f.size, byteAt p k = byteAt f.payload k) :
    ser { f with payload := p } = ser f :=
  byteArray_ext fun k hk => by rw [byteAt_ser _ _ hk, byteAt_ser _ _ hk, serByte_withPayload agree]

/-- Settles O51: `ENC` writes the image of the frame and a constant count, and the image does not see the held bytes. -/
theorem encLeaksNoHeldPayloadByte : Obligations.EncLeaksNoHeldPayloadByte := by
  intro s s' p t t' fr agree ht ht'
  rw [listedSize_eq_dlcToSize] at agree
  obtain rfl := done_eq_next.1 ht
  obtain rfl := done_eq_next.1 ht'
  simp [fr, ser_withPayload agree]

end Sys2Proof.Machine

/-! ### Reset values and the STATUS word (R24, R37, R301) -/

namespace Sys2Proof.Machine

/-- Settles O1: the invariants are those of O2. -/
theorem resetLeavesEveryFieldZero : Obligations.ResetLeavesEveryFieldZero := by
  obtain ⟨frame, table⟩ := resetMeetsTheInvariant
  refine ⟨rfl, rfl, rfl, rfl, rfl, rfl, rfl, rfl, rfl, rfl, rfl, fun k _ => byteAt_replicate k, rfl, rfl, rfl, rfl,
    fun k _ => byteAt_replicate k, rfl, List.length_replicate, fun e he => ?_, rfl, frame, table.entries⟩
  rw [table.uninit_empty rfl e he]
  exact ⟨rfl, rfl, rfl, rfl, rfl⟩

/-- Settles O16: the two terms of `statusWord_toNat`, each written out. -/
theorem statusWordShowsCodeAndInit : Obligations.StatusWordShowsCodeAndInit := by
  intro s
  rw [statusWord_toNat, Nat.add_comm]
  congr 1
  · cases s.init <;> rfl
  · cases s.code <;> rfl

end Sys2Proof.Machine

/-! ### Reading the control byte (R28, R132, R133) -/

namespace Sys2Proof.Machine

/-- The control byte is the number that R28 describes. -/
theorem ctl_toNat (f : Frame) : (ctl f).toNat = controlNumber f := by
  rw [ctl, ctlByte_toNat, controlNumber]
  congr 1
  · cases f.fmt <;> cases f.remote <;> cases f.overrun <;> cases f.brs <;> rfl
  · cases f.esi <;> rfl

/-- R132: the readable positions. -/
theorem readableBit_eq (a : Byte) :
    readableBit a = if a.toNat ∈ [0, 1, 2, 3, 6, 7] then some a.toNat else none := by
  unfold readableBit
  split
  · rfl
  · rfl
  · rfl
  · rfl
  · rfl
  · rfl
  · simp_all [← BitVec.toNat_inj]

/-- One bit of the control byte, as the word that `GETFLG` reports. -/
theorem bitWord_toNat (x : Byte) (k : Nat) :
    ((BitVec.ofBool (x.getLsbD k)).setWidth 32).toNat = x.toNat / 2 ^ k % 2 := by
  rw [← Nat.toNat_testBit, ← BitVec.getLsbD]
  cases x.getLsbD k <;> rfl

/-- Settles O39: `readableBit` lets the six positions through, and each is a binary digit of the control byte. -/
theorem controlByteReads : Obligations.ControlByteReads := by
  intro c b a s
  refine ⟨⟨decode_cmdFields .., (ctl s.fr).setWidth 32, rfl, ?_⟩, decode_cmdFields .., fun readable =>
    ⟨(BitVec.ofBool ((ctl s.fr).getLsbD a.toNat)).setWidth 32, ?_, ?_⟩, fun other => ?_⟩
  · rw [BitVec.toNat_setWidth_of_le (by decide), ctl_toNat]
  · simp only [exec, execGetflg, readableBit_eq, if_pos readable]
    rfl
  · rw [bitWord_toNat, ctl_toNat]
  · simp only [exec, execGetflg, readableBit_eq, if_neg other]
    rfl

end Sys2Proof.Machine

/-! ### The register port (R21, R61, R64, R81) -/

namespace Sys2Proof.Machine

/-- R64, R81: a word that decodes, written to `CMD`, runs the command it encodes. -/
theorem command_of_decode {w : Word} {i : Instr} (h : decode w = .ok i) (s : State) : command w s = exec i s := by
  simp only [command, h]

/-- Settles O14: a step performs the first pending action, and that action is a command. -/
theorem stepRunsTheDecodedCommand : Obligations.StepRunsTheDecodedCommand := by
  intro s w i rest pending decoded
  calc step s = command w (s.setPending rest) := step_of_pending_cons pending
    _ = exec i (s.setPending rest) := command_of_decode decoded _

/-- What a slot reads as does not depend on what the host does next. -/
@[simp] theorem portRead_setPending (s : State) (rest : List HostAction) (p : Slot) :
    portRead (s.setPending rest) p = portRead s p := by
  cases p <;> rfl

/-- R61, R64: the slots that ignore writes. -/
theorem portWrite_of_ignored {p : Slot}
    (h : p = .res ∨ p = .status ∨ p = .reserved5 ∨ p = .reserved6 ∨ p = .reserved7) (v : Word) (s : State) :
    portWrite p v s = .next s := by
  rcases h with rfl | rfl | rfl | rfl | rfl <;> rfl

/-- Settles O15: the word a read returns is `portRead`'s, and a write is `portWrite`'s arm for its slot. -/
theorem portAccessesFollowTheAddressMap : Obligations.PortAccessesFollowTheAddressMap := by
  intro s rest
  refine ⟨fun p pending => ⟨portRead s p, ?_, ?_⟩, fun v pending => step_of_pending_cons pending,
    fun v pending => step_of_pending_cons pending, fun p v ignored pending => ?_⟩
  · calc step s
      _ = .next ((s.setPending rest).recordRead (portRead (s.setPending rest) p)) := step_of_pending_cons pending
      _ = .next ((s.setPending rest).recordRead (portRead s p)) := by rw [portRead_setPending]
  · refine ⟨?_, ?_, ?_, ?_, ?_, ?_, ?_, ?_⟩ <;> rintro rfl <;> rfl
  · exact (step_of_pending_cons pending).trans (portWrite_of_ignored ignored v _)

end Sys2Proof.Machine

/-! ### Payload bytes and words (R66, R135 to R137) -/

namespace Sys2Proof.Machine

/-- R9: the bytes of a word, in the order the statements count them. -/
theorem be32Byte_toNat_eq_bigEndianByte (v : Word) (j : Nat) : (be32Byte v j).toNat = bigEndianByte v j := by
  simp only [be32Byte_toNat, bigEndianByte, Nat.pow_mul, Nat.reducePow]

/-- R66: byte `j` of a stored word is byte `j` in big-endian order. -/
theorem byteAt_putWord_add {n : Nat} (v : Vector Byte n) {k j : Nat} (x : Word) (hk : k + 3 < n) (hj : j < 4) :
    byteAt (putWord v k x) (k + j) = be32Byte x j := by
  rw [byteAt_putWord _ _ _ _ hk, if_pos (by omega), Nat.add_sub_cancel_left]

/-- R66: a word read at the offset it was stored at is the word. -/
theorem wordAt_putWord {n : Nat} (v : Vector Byte n) {k : Nat} (x : Word) (hk : k + 3 < n) :
    wordAt (putWord v k x) k = x := by
  have stored (j : Nat) (hj : j < 4) := byteAt_putWord_add v x hk hj
  have first : byteAt (putWord v k x) k = be32Byte x 0 := stored 0 (by decide)
  rw [wordAt, first, stored 1 (by decide), stored 2 (by decide), stored 3 (by decide), be32_bytes]

/-- R136: `PSETW` at a legal offset stores `ARG0` there. -/
theorem exec_psetw_of_legal {a : Byte} (legal : a.toNat ≤ 60) (s : State) :
    exec (.psetw a) s = done (s.setFr { s.fr with payload := putWord s.fr.payload a.toNat s.arg0 }) := by
  simp only [exec, execPsetw, payloadWordOffset_eq_some.2 ⟨rfl, legal⟩, operand0]

/-- R137: `PGETW` at a legal offset reports the word there. -/
theorem exec_pgetw_of_legal {a : Byte} (legal : a.toNat ≤ 60) (s : State) :
    exec (.pgetw a) s = doneWith (wordAt s.fr.payload a.toNat) s := by
  simp only [exec, execPgetw, payloadWordOffset_eq_some.2 ⟨rfl, legal⟩]

/-- R135: `PGETB` at a legal offset reports the byte there. -/
theorem exec_pgetb_of_legal {a : Byte} (legal : a.toNat < 64) (s : State) :
    exec (.pgetb a) s = doneWith ((byteAt s.fr.payload a.toNat).setWidth 32) s := by
  simp only [exec, execPgetb, payloadByteOffset_eq_some.2 ⟨rfl, legal⟩]

/-- Settles O42: both reads find the word that `PSETW` stored, whole or by its bytes; no byte offset wraps. -/
theorem mixedWidthAccessIsBigEndian : Obligations.MixedWidthAccessIsBigEndian := by
  intro a s t legal stored
  rw [exec_psetw_of_legal legal] at stored
  obtain rfl := done_eq_next.1 stored
  refine ⟨⟨_, exec_pgetw_of_legal legal _, rfl, wordAt_putWord _ _ (by omega)⟩, fun j hj => ?_⟩
  have offset : (a + BitVec.ofNat 8 j).toNat = a.toNat + j := by
    rw [BitVec.toNat_add, BitVec.toNat_ofNat]
    omega
  refine ⟨_, exec_pgetb_of_legal (by omega) _, rfl, ?_⟩
  calc ((byteAt (putWord s.fr.payload a.toNat s.arg0) (a + BitVec.ofNat 8 j).toNat).setWidth 32).toNat
    _ = (byteAt (putWord s.fr.payload a.toNat s.arg0) (a.toNat + j)).toNat := by
      rw [BitVec.toNat_setWidth_of_le (by decide), offset]
    _ = (be32Byte s.arg0 j).toNat := by rw [byteAt_putWord_add _ _ (by omega) hj]
    _ = bigEndianByte s.arg0 j := be32Byte_toNat_eq_bigEndianByte _ _

end Sys2Proof.Machine

/-! ### Decoding what the encoder writes (R80, R82, R84) -/

namespace Sys2Proof

/-- R84: the decoder inverts the encoder. The three fields are cut out of the word, and each operand form reads back what
it encodes. -/
theorem decode_encode (i : Instr) : decode (encode i) = .ok i := by
  cases i with
  | nop | frclr | getfmt | setid | getid | getdlc | getsize | getctl | setts | getsec | getnsec | setusr | getusr | setmrk
  | getmrk | enc | dec | wclr | getwlen | finit | frel | matchf => exact decode_cmdWord ..
  | setdlc | getflg | pgetb | psetw | pgetw | wpush | wrd | psetb | wwr => exact decode_cmdWord ..
  | setfmt fmt | mskid fmt =>
    simp only [encode, decode_cmdWord, decodeFields, BitVec.ofNat_eq_ofNat, fmtForm_fmtByte]
  | setflg _ val | d2s _ val | s2d _ val =>
    simp only [encode, decode_cmdWord, decodeFields, BitVec.ofNat_eq_ofNat, bitForm_bitByte]
  | mbcfg _ fmt dir | matchId fmt dir =>
    simp only [encode, decode_cmdWord, decodeFields, BitVec.ofNat_eq_ofNat, fmtForm_fmtdirByte, dirForm_fmtdirByte]
  | mbrd _ sel => simp only [encode, decode_cmdWord, decodeFields, BitVec.ofNat_eq_ofNat, selForm_selByte]

/-- Settles O6. -/
theorem decodeInvertsEncode : Obligations.DecodeInvertsEncode := decode_encode

end Sys2Proof

/-! ### Opcodes (R81, R83 to R85) -/

namespace Sys2Proof.Machine

/-- R81, R83: an opcode either has a row of the table, whose command every word with it decodes to, or it is undefined
and rejected by name. -/
theorem decodeFields_cases (op a b : Byte) :
    (¬ undefinedOp op ∧ ∃ i, decodeFields op a b = .ok i ∧ tableOpcode i = op.toNat) ∨
      (undefinedOp op ∧ decodeFields op a b = .error (.undefinedOpcode op)) := by
  unfold decodeFields undefinedOp
  split
  -- the last arm, of an opcode that is none of the table's
  case h_40 =>
    refine .inr ⟨?_, rfl⟩
    simp only [imp_false, ← BitVec.toNat_inj, BitVec.toNat_ofNat, Nat.reducePow, Nat.reduceMod] at *
    omega
  all_goals exact .inl ⟨by decide, _, rfl, rfl⟩

/-- R85: an undefined opcode is rejected by name. -/
theorem decode_of_undefinedOp {w : Word} (h : undefinedOp (opField w)) :
    decode w = .error (.undefinedOpcode (opField w)) := by
  rcases decodeFields_cases (opField w) (aField w) (bField w) with ⟨defined, -⟩ | ⟨-, rejected⟩
  · exact absurd h defined
  · exact rejected

/-- R81: every other opcode is that of the row of its command. -/
theorem decode_of_not_undefinedOp {w : Word} (h : ¬ undefinedOp (opField w)) :
    ∃ i, decode w = .ok i ∧ tableOpcode i = (opField w).toNat := by
  rcases decodeFields_cases (opField w) (aField w) (bField w) with ⟨-, decoded⟩ | ⟨undefined, -⟩
  · exact decoded
  · exact absurd undefined h

/-- A word that decodes to a command does not have an undefined opcode. -/
theorem not_undefinedOp_of_decode {w : Word} {i : Instr} (h : decode w = .ok i) : ¬ undefinedOp (opField w) := by
  intro undefined
  rw [decode_of_undefinedOp undefined] at h
  cases h

/-- Settles O8: the opcodes with a row are those outside the undefined ranges. -/
theorem decodingIsTotalAndByOpcode : Obligations.DecodingIsTotalAndByOpcode := by
  intro w
  refine ⟨⟨fun ⟨_, decoded⟩ => not_undefinedOp_of_decode decoded, fun defined => ?_⟩, decode_of_undefinedOp,
    fun i decoded => ?_⟩
  · obtain ⟨i, decoded, -⟩ := decode_of_not_undefinedOp defined
    exact ⟨i, decoded⟩
  · obtain ⟨j, decoded', opcode⟩ := decode_of_not_undefinedOp (not_undefinedOp_of_decode decoded)
    cases decoded.symm.trans decoded'
    exact opcode

/-- R85: a word with an undefined opcode, written to `CMD`, reports `NOT_SUPPORTED` and nothing else. -/
theorem command_of_undefinedOp {w : Word} (h : undefinedOp (opField w)) (s : State) :
    command w s = .next (s.setCode .notSupported) := by
  simp only [command, decode_of_undefinedOp h, illegalCommand, raise]

/-- Settles O9: the step performs the write, and the host's other actions stay. -/
theorem undefinedOpcodeOnlyReportsNotSupported : Obligations.UndefinedOpcodeOnlyReportsNotSupported := by
  intro s w rest pending undefined
  refine ⟨?_, rfl⟩
  calc step s = command w (s.setPending rest) := step_of_pending_cons pending
    _ = .next ((s.setPending rest).setCode .notSupported) := command_of_undefinedOp undefined _

/-- The word of a command, however it is written, decodes to the command. -/
theorem decode_of_eq_encode {w : Word} {i : Instr} (h : w = encode i) : decode w = .ok i := by
  rw [h, decode_encode]

/-- Settles O10: nine of the words are what `encode` writes, and the tenth has an undefined opcode. -/
theorem workedEncodingsDecode : Obligations.WorkedEncodingsDecode :=
  ⟨decode_of_eq_encode rfl, decode_of_eq_encode rfl, decode_of_eq_encode rfl, decode_of_eq_encode rfl,
    decode_of_eq_encode rfl, decode_of_eq_encode rfl, decode_of_eq_encode rfl, decode_of_eq_encode rfl,
    decode_of_eq_encode rfl, decode_of_undefinedOp (.inl (by decide))⟩

end Sys2Proof.Machine

/-! ### Reserved bits (R82, R86) -/

namespace Sys2Proof.Machine

/-- The bits of `A` that a command of this opcode reads. -/
def usedA (op : Byte) : Byte := if readsA op.toNat then 0xFF else 0

/-- The bits that are not reserved, field by field. -/
theorem usedBits_eq_cmdFields (op : Byte) : usedBits op = cmdFields 0 (usedB op.toNat) (usedA op) 0xFF := rfl

theorem cmdFields_and (c b a op c' b' a' op' : Byte) :
    cmdFields c b a op &&& cmdFields c' b' a' op' = cmdFields (c &&& c') (b &&& b') (a &&& a') (op &&& op') := by
  have h : (c ++ b ++ a ++ op) &&& (c' ++ b' ++ a' ++ op') =
      (c &&& c') ++ (b &&& b') ++ (a &&& a') ++ (op &&& op') := by
    simp only [BitVec.and_append]
  exact h

/-- Masking a word with the bits that are not reserved masks `B` and `A`, clears `C` and keeps `OP`. -/
theorem cmdFields_and_usedBits (c b a op op' : Byte) :
    cmdFields c b a op &&& usedBits op' = cmdFields 0 (b &&& usedB op'.toNat) (a &&& usedA op') op := by
  rw [usedBits_eq_cmdFields, cmdFields_and]
  congr 1
  · exact BitVec.and_zero
  · exact BitVec.and_allOnes

theorem opField_and_usedBits (w : Word) (op : Byte) : opField (w &&& usedBits op) = opField w := by
  obtain ⟨c, b, a, op', rfl⟩ := exists_cmdFields w
  rw [cmdFields_and_usedBits, opField_cmdFields, opField_cmdFields]

/-! ### The hardware ignores reserved bits (R86) -/

theorem fmtForm_and {m : Byte} (h : m.extractLsb' 0 2 = BitVec.allOnes 2) (b : Byte) :
    fmtForm (b &&& m) = fmtForm b := by
  rw [fmtForm, BitVec.extractLsb'_and, h, BitVec.and_allOnes, fmtForm]

theorem selForm_and {m : Byte} (h : m.extractLsb' 0 2 = BitVec.allOnes 2) (b : Byte) :
    selForm (b &&& m) = selForm b := by
  rw [selForm, BitVec.extractLsb'_and, h, BitVec.and_allOnes, selForm]

theorem dirForm_and {m : Byte} (h : m.getLsbD 2 = true) (b : Byte) : dirForm (b &&& m) = dirForm b := by
  rw [dirForm, BitVec.getLsbD_and, h, Bool.and_true, dirForm]

theorem bitForm_and {m : Byte} (h : m.getLsbD 0 = true) (b : Byte) : bitForm (b &&& m) = bitForm b := by
  rw [bitForm, BitVec.getLsbD_and, h, Bool.and_true, bitForm]

/-- R82: each row reads `A` and `B` through an operand form, and no form reads a reserved bit. -/
theorem decodeFields_and_used (op a b : Byte) :
    decodeFields op (a &&& usedA op) (b &&& usedB op.toNat) = decodeFields op a b := by
  have whole (x : Byte) : x &&& 0xFF#8 = x := BitVec.and_allOnes
  have fmt := fmtForm_and (m := 0x03#8) rfl b
  have fmtOfFmtdir := fmtForm_and (m := 0x07#8) rfl b
  have dir := dirForm_and (m := 0x07#8) rfl b
  have sel := selForm_and (m := 0x03#8) rfl b
  have bit := bitForm_and (m := 0x01#8) rfl b
  unfold decodeFields
  split
  -- the last arm rejects both words
  case h_40 => rfl
  all_goals simp [usedA, usedB, readsA, whole, fmt, fmtOfFmtdir, dir, sel, bit]

theorem decode_and_usedBits (w : Word) : decode (w &&& usedBits (opField w)) = decode w := by
  obtain ⟨c, b, a, op, rfl⟩ := exists_cmdFields w
  rw [opField_cmdFields, cmdFields_and_usedBits, decode_cmdFields, decode_cmdFields, decodeFields_and_used]

/-- R86: words that agree on the bits that are not reserved decode alike. -/
theorem decode_congr_usedBits {w w' : Word} (h : w &&& usedBits (opField w) = w' &&& usedBits (opField w)) :
    decode w = decode w' := by
  have op : opField w = opField w' := by
    rw [← opField_and_usedBits w (opField w), h, opField_and_usedBits]
  calc decode w = decode (w &&& usedBits (opField w)) := (decode_and_usedBits w).symm
    _ = decode (w' &&& usedBits (opField w')) := by rw [h, op]
    _ = decode w' := decode_and_usedBits w'

/-! ### The encoder writes reserved bits as 0 (R86) -/

theorem cmdWord_and_usedBits {op a b : Byte} (ha : a &&& usedA op = a) (hb : b &&& usedB op.toNat = b) :
    cmdWord op a b &&& usedBits (opField (cmdWord op a b)) = cmdWord op a b := by
  rw [opField_cmdWord, cmdWord, cmdFields_and_usedBits, ha, hb]

/-- R86: the word of a command has no reserved bit set. -/
theorem encode_and_usedBits (i : Instr) : encode i &&& usedBits (opField (encode i)) = encode i := by
  cases i with
  | nop | frclr | getfmt | setid | getid | getdlc | getsize | getctl | setts | getsec | getnsec | setusr | getusr | setmrk
  | getmrk | enc | dec | wclr | getwlen | finit | frel | matchf => exact cmdWord_and_usedBits rfl rfl
  | setdlc | getflg | pgetb | psetw | pgetw | wpush | wrd => exact cmdWord_and_usedBits BitVec.and_allOnes rfl
  | psetb | wwr => exact cmdWord_and_usedBits BitVec.and_allOnes BitVec.and_allOnes
  | setfmt fmt | mskid fmt => exact cmdWord_and_usedBits rfl (by cases fmt <;> rfl)
  | setflg _ val | d2s _ val | s2d _ val => exact cmdWord_and_usedBits BitVec.and_allOnes (by cases val <;> rfl)
  | mbcfg _ fmt dir => exact cmdWord_and_usedBits BitVec.and_allOnes (by cases fmt <;> cases dir <;> rfl)
  | matchId fmt dir => exact cmdWord_and_usedBits rfl (by cases fmt <;> cases dir <;> rfl)
  | mbrd _ sel => exact cmdWord_and_usedBits BitVec.and_allOnes (by cases sel <;> rfl)

/-- Settles O7: a command is what its word decodes to, and the encoder's word is unchanged by the mask. -/
theorem reservedBitsAreIgnored : Obligations.ReservedBitsAreIgnored := by
  refine ⟨fun w w' s agree => ?_, fun i => ?_⟩
  · simp only [command, decode_congr_usedBits agree]
  · calc encode i &&& ~~~usedBits (opField (encode i))
      _ = encode i &&& usedBits (opField (encode i)) &&& ~~~usedBits (opField (encode i)) := by
        rw [encode_and_usedBits]
      _ = 0 := by rw [BitVec.and_assoc, BitVec.and_not_self]; exact BitVec.and_zero

end Sys2Proof.Machine

/-! ### The assembler (R88 to R91) -/

namespace Sys2Proof.Machine

/-- What R89 says of the accesses of a command line: writes of `ARG0` and `ARG1` at most, and then one write of `CMD`
whose word decodes. -/
def IsCommandLine (acts : List HostAction) : Prop :=
  ∃ args w i, acts = args ++ [.write .cmd w] ∧ decode w = .ok i ∧
    (args = [] ∨ (∃ v, args = [.write .arg0 v]) ∨ ∃ v v', args = [.write .arg0 v, .write .arg1 v'])

theorem IsCommandLine.plain (i : Instr) : IsCommandLine [wrCmd i] :=
  ⟨[], _, i, rfl, decode_encode i, .inl rfl⟩

theorem IsCommandLine.withArg0 (v : Word) (i : Instr) : IsCommandLine [.write .arg0 v, wrCmd i] :=
  ⟨[_], _, i, rfl, decode_encode i, .inr (.inl ⟨v, rfl⟩)⟩

theorem IsCommandLine.withArgs (v v' : Word) (i : Instr) :
    IsCommandLine [.write .arg0 v, .write .arg1 v', wrCmd i] :=
  ⟨[_, _], _, i, rfl, decode_encode i, .inr (.inr ⟨v, v', rfl⟩)⟩

/-- `MBRD` takes its selector as a whole byte, which need not be one that `encode` writes (log entry 10). -/
theorem IsCommandLine.mbrd (idx sel : Byte) : IsCommandLine [.write .cmd (cmdWord 0x43 idx sel)] :=
  ⟨[], _, .mbrd idx (selForm sel), rfl, decode_cmdWord .., .inl rfl⟩

/-- A line whose operands have been read has the accesses it says. -/
theorem forall_accesses_some {P : List HostAction → Prop} {acts : List HostAction} (h : P acts) :
    ∀ acts' ∈ some acts, P acts' := by
  rintro _ ⟨⟩
  exact h

/-- One operand of a line: an operand that does not fit gives no accesses, so only those that fit are left to show. -/
theorem forall_accesses_bind {α : Type} {P : List HostAction → Prop} {operand : Option α}
    {f : α → Option (List HostAction)} (h : ∀ x, ∀ acts ∈ f x, P acts) : ∀ acts ∈ operand >>= f, P acts := by
  intro acts accepted
  obtain ⟨x, -, accepted⟩ := Option.bind_eq_some_iff.1 accepted
  exact h x acts accepted

/-- R89, line by line: the number of operands, and which of them go to `ARG0` and `ARG1`. -/
theorem isCommandLine_of_assemble (l : AsmLine) (notWr : ∀ p v, l ≠ .wr p v) (notRd : ∀ p, l ≠ .rd p) :
    ∀ acts ∈ assemble l, IsCommandLine acts := by
  cases l with
  | wr p v => exact absurd rfl (notWr p v)
  | rd p => exact absurd rfl (notRd p)
  | nop | frclr | getfmt | getid | getdlc | getsize | getctl | getsec | getnsec | getusr | getmrk | enc | dec | wclr
  | getwlen | finit | frel | matchf => exact forall_accesses_some (.plain _)
  | setfmt | setdlc | getflg | pgetb | pgetw | wpush | wrd =>
    exact forall_accesses_bind fun _ => forall_accesses_some (.plain _)
  | setflg | psetb | d2s | s2d | wwr =>
    exact forall_accesses_bind fun _ => forall_accesses_bind fun _ => forall_accesses_some (.plain _)
  | setid | setusr | setmrk => exact forall_accesses_bind fun _ => forall_accesses_some (.withArg0 _ _)
  | psetw | mskid =>
    exact forall_accesses_bind fun _ => forall_accesses_bind fun _ => forall_accesses_some (.withArg0 _ _)
  | matchId =>
    exact forall_accesses_bind fun _ => forall_accesses_bind fun _ => forall_accesses_bind fun _ =>
      forall_accesses_some (.withArg0 _ _)
  | setts => exact forall_accesses_bind fun _ => forall_accesses_bind fun _ => forall_accesses_some (.withArgs _ _ _)
  | mbcfg =>
    exact forall_accesses_bind fun _ => forall_accesses_bind fun _ => forall_accesses_bind fun _ =>
      forall_accesses_bind fun _ => forall_accesses_bind fun _ => forall_accesses_some (.withArgs _ _ _)
  | mbrd => exact forall_accesses_bind fun _ => forall_accesses_bind fun _ => forall_accesses_some (.mbrd _ _)

/-- Settles O12: `IsCommandLine` is what it asks of the accesses. -/
theorem assembledCommandsDecode : Obligations.AssembledCommandsDecode :=
  fun l acts accepted notWr notRd => isCommandLine_of_assemble l notWr notRd acts accepted

/-- Settles O11: each line is assembled as R91 lists it. -/
theorem workedSourceLinesAssemble : Obligations.WorkedSourceLinesAssemble :=
  ⟨rfl, rfl, rfl, rfl, rfl, rfl, rfl, rfl, rfl⟩

end Sys2Proof.Machine

/-! ### `LDID` (R90, R122, R125, R405) -/

namespace Sys2Proof

theorem Format.code_ofCode (c : BitVec 2) : (Format.ofCode c).code = c := by
  revert c; decide

end Sys2Proof

namespace Sys2Proof.Machine

/-- R89: a format operand that fits is the number of its format. -/
theorem fmtOperand_eq_some {n : Nat} {f : Format} (h : fmtOperand n = some f) : f.code.toNat = n := by
  unfold fmtOperand at h
  split at h
  · cases h
    rw [Format.code_ofCode, BitVec.toNat_ofNat, Nat.mod_eq_of_lt (by omega)]
  · cases h

/-- R88: a 32-bit operand that fits is the number itself. -/
theorem wordOperand_eq_some {n : Nat} {v : Word} (h : wordOperand n = some v) : v.toNat = n := by
  unfold wordOperand at h
  split at h
  · cases h
    rw [BitVec.toNat_ofNat, Nat.mod_eq_of_lt ‹_›]
  · cases h

/-- R102: a masked identifier is reduced to the width of the format. -/
theorem maskIdentifier_toNat_eq_mod_idWidth (id : Word) (f : Format) :
    (maskIdentifier id f).toNat = id.toNat % 2 ^ idWidth f := by
  rw [maskIdentifier_toNat]
  cases f <;> rfl

/-- R88: the accesses of a program are those of its first line and then those of the others. -/
theorem assembleAll_cons_eq_some {l : AsmLine} {ls : List AsmLine} {acts : List HostAction}
    (h : assembleAll (l :: ls) = some acts) :
    ∃ first later, assemble l = some first ∧ assembleAll ls = some later ∧ acts = first ++ later := by
  obtain ⟨first, hfirst, h⟩ := Option.bind_eq_some_iff.1 h
  obtain ⟨later, hlater, ⟨⟩⟩ := Option.bind_eq_some_iff.1 h
  exact ⟨first, later, hfirst, hlater, rfl⟩

/-- R90: the accesses of an accepted `LDID`. -/
theorem assembleAll_ldid_eq_some {fmt id : Nat} {acts : List HostAction}
    (h : assembleAll (PseudoLine.expand (.ldid fmt id)) = some acts) :
    ∃ f v, fmtOperand fmt = some f ∧ wordOperand id = some v ∧
      acts = [wrCmd (.setfmt f), .write .arg0 v, wrCmd .setid] := by
  obtain ⟨_, _, setfmt, later, rfl⟩ := assembleAll_cons_eq_some h
  obtain ⟨_, _, setid, ⟨⟩, rfl⟩ := assembleAll_cons_eq_some later
  obtain ⟨f, hf, ⟨⟩⟩ := Option.bind_eq_some_iff.1 setfmt
  obtain ⟨v, hv, ⟨⟩⟩ := Option.bind_eq_some_iff.1 setid
  exact ⟨f, v, hf, hv, rfl⟩

/-- A step on an assembled command runs the command. -/
theorem step_of_pending_wrCmd {s : State} {i : Instr} {rest : List HostAction} (h : s.pending = wrCmd i :: rest) :
    step s = exec i (s.setPending rest) :=
  stepRunsTheDecodedCommand s _ i rest h (decode_encode i)

/-- R64: a step on a write of `ARG0` stores the word. -/
theorem step_of_pending_writeArg0 {s : State} {v : Word} {rest : List HostAction}
    (h : s.pending = .write .arg0 v :: rest) : step s = .next ((s.setPending rest).setArg0 v) :=
  step_of_pending_cons h

/-- The state after `LDID`: the frame in the new format, with the identifier masked to it, not to the one before. -/
def afterLdid (s : State) (f : Format) (v : Word) (rest : List HostAction) : State :=
  (((s.setPending rest).setArg0 v).setFr { s.fr.reformat f with id := maskIdentifier v f }).setCode .ok

/-- R90, R405: `SETFMT`, the write of `ARG0` and `SETID`, one step each. -/
theorem run_ldid {s : State} {f : Format} {v : Word} {rest : List HostAction}
    (h : s.pending = wrCmd (.setfmt f) :: .write .arg0 v :: wrCmd .setid :: rest) :
    Sys2Proof.core.run 3 s = .next (afterLdid s f v rest) := by
  calc Sys2Proof.core.run 3 s
    _ = Sys2Proof.core.run 2 (((s.setPending (.write .arg0 v :: wrCmd .setid :: rest)).setFr
          (s.fr.reformat f)).setCode .ok) := run_succ_of_step (step_of_pending_wrCmd h) 2
    _ = Sys2Proof.core.run 1 ((((s.setPending (wrCmd .setid :: rest)).setFr
          (s.fr.reformat f)).setCode .ok).setArg0 v) := run_succ_of_step (step_of_pending_writeArg0 rfl) 1
    _ = Sys2Proof.core.run 0 (afterLdid s f v rest) :=
      run_succ_of_step (step_of_pending_wrCmd (i := .setid) (rest := rest) rfl) 0

/-- Settles O13: the fields of the state that the three steps lead to. -/
theorem ldidLoadsFormatThenIdentifier : Obligations.LdidLoadsFormatThenIdentifier := by
  intro s rest fmt id acts accepted pending
  obtain ⟨f, v, hf, hv, rfl⟩ := assembleAll_ldid_eq_some accepted
  refine ⟨afterLdid s f v rest, run_ldid pending, rfl, rfl, fmtOperand_eq_some hf, ?_, rfl, rfl, rfl, rfl, rfl⟩
  calc (maskIdentifier v f).toNat = v.toNat % 2 ^ idWidth f := maskIdentifier_toNat_eq_mod_idWidth v f
    _ = id % 2 ^ idWidth f := by rw [wordOperand_eq_some hv]

end Sys2Proof.Machine

/-! ### The conversion commands (R100 to R106) -/

namespace Sys2Proof.Machine

/-- R101: `d` is the lowest FD DLC whose listed size is not below `n`. -/
def LowestFit (n d : Nat) : Prop := n ≤ fdSizes.getD d 0 ∧ ∀ e < d, fdSizes.getD e 0 < n

theorem LowestFit.unique {n d e : Nat} (hd : LowestFit n d) (he : LowestFit n e) : d = e := by
  obtain ⟨dFits, belowD⟩ := hd
  obtain ⟨eFits, belowE⟩ := he
  rcases lt_trichotomy d e with h | h | h
  · exact absurd dFits (belowE d h).not_ge
  · exact h
  · exact absurd eFits (belowD e h).not_ge

/-- R100: the FD sizes ascend. -/
theorem fdSizes_lt_of_lt : ∀ d ≤ 15, ∀ e < d, fdSizes.getD e 0 < fdSizes.getD d 0 := by decide

/-- R100: up to 8 bytes, the DLC is the size. -/
theorem fdSizes_eq_self : ∀ d ≤ 8, fdSizes.getD d 0 = d := by decide

theorem lowestFit_fdSizes {d : Nat} (h : d ≤ 15) : LowestFit (fdSizes.getD d 0) d := ⟨le_rfl, fdSizes_lt_of_lt d h⟩

theorem lowestFit_self {n : Nat} (h : n ≤ 8) : LowestFit n n :=
  ⟨(fdSizes_eq_self n h).ge, fun e below => (fdSizes_eq_self e (below.le.trans h)).trans_lt below⟩

/-- A size above that of one DLC and not above that of the next one. -/
theorem lowestFit_succ {n k : Nat} (hk : k ≤ 15) (above : fdSizes.getD k 0 < n) (fits : n ≤ fdSizes.getD (k + 1) 0) :
    LowestFit n (k + 1) := by
  refine ⟨fits, fun e below => ?_⟩
  rcases Nat.lt_succ_iff_lt_or_eq.1 below with lt | rfl
  · exact (fdSizes_lt_of_lt k hk e lt).trans above
  · exact above

/-- R101: the FD thresholds of `sizeToDlc` are the listed sizes. -/
theorem lowestFit_sizeToDlc {n : Byte} (h : n.toNat ≤ 64) : LowestFit n.toNat (sizeToDlc n true) := by
  simp only [sizeToDlc, Bool.not_true, Bool.false_eq_true, if_false]
  split_ifs with h8 h12 h16 h20 h24 h32 h48
  · exact lowestFit_self h8
  · exact lowestFit_succ (k := 8) (by decide) (not_le.1 h8) h12
  · exact lowestFit_succ (k := 9) (by decide) (not_le.1 h12) h16
  · exact lowestFit_succ (k := 10) (by decide) (not_le.1 h16) h20
  · exact lowestFit_succ (k := 11) (by decide) (not_le.1 h20) h24
  · exact lowestFit_succ (k := 12) (by decide) (not_le.1 h24) h32
  · exact lowestFit_succ (k := 13) (by decide) (not_le.1 h32) h48
  · exact lowestFit_succ (k := 14) (by decide) (not_le.1 h48) h

/-- R101: an FD size that no DLC holds gets the highest one. -/
theorem sizeToDlc_fd_of_gt {n : Byte} (h : 64 < n.toNat) : sizeToDlc n true = 15 := by
  simp only [sizeToDlc, Bool.not_true, Bool.false_eq_true, if_false]
  split_ifs <;> omega

/-- R101: a classic size is clamped to 8. -/
theorem sizeToDlc_classic (n : Byte) : sizeToDlc n false = min n.toNat 8 := rfl

/-- R100: a DLC up to 8 is its own size. -/
theorem dlcToSize_of_le {d : Byte} (h : d.toNat ≤ 8) (fd : Bool) : dlcToSize d fd = d.toNat := if_pos h

/-- A size or a DLC fits in a byte, and in `RES`. -/
theorem toNat_ofNat_of_le_64 {w n : Nat} (hw : 7 ≤ w) (h : n ≤ 64) : (BitVec.ofNat w n).toNat = n :=
  Nat.mod_eq_of_lt (h.trans_lt (Nat.lt_of_lt_of_le (by decide) (Nat.pow_le_pow_right two_pos hw)))

theorem toNat_ofNat_dlcToSize {w : Nat} (hw : 7 ≤ w) (d : Byte) (fd : Bool) :
    (BitVec.ofNat w (dlcToSize d fd)).toNat = dlcToSize d fd :=
  toNat_ofNat_of_le_64 hw (dlcToSize_le d fd)

theorem toNat_ofNat_sizeToDlc {w : Nat} (hw : 7 ≤ w) (n : Byte) (fd : Bool) :
    (BitVec.ofNat w (sizeToDlc n fd)).toNat = sizeToDlc n fd :=
  toNat_ofNat_of_le_64 hw ((sizeToDlc_le n fd).trans (by decide))

/-- Settles O28: the listed size is what `dlcToSize` computes. -/
theorem dlcToSizeCommandGivesTheListedSize : Obligations.DlcToSizeCommandGivesTheListedSize := by
  refine fun c b a s => ⟨decode_cmdFields .., fun fd => ⟨BitVec.ofNat 32 (dlcToSize a fd), rfl, ?_⟩⟩
  rw [toNat_ofNat_dlcToSize (by decide), listedSize_eq_dlcToSize]

/-- Settles O29: `sizeToDlc` clamps a classic size, and gives the lowest fit of an FD size. -/
theorem sizeToDlcCommandGivesTheSmallestFit : Obligations.SizeToDlcCommandGivesTheSmallestFit := by
  intro c b a s
  refine ⟨decode_cmdFields .., ⟨BitVec.ofNat 32 (sizeToDlc a false), rfl, toNat_ofNat_sizeToDlc (by decide) a false⟩,
    BitVec.ofNat 32 (sizeToDlc a true), rfl, ?_⟩
  rw [toNat_ofNat_sizeToDlc (by decide)]
  exact ⟨fun small => ⟨sizeToDlc_le a true, lowestFit_sizeToDlc small⟩, sizeToDlc_fd_of_gt⟩

/-- R106 (a). -/
theorem sizeToDlc_dlcToSize_classic {d : Byte} (h : d.toNat ≤ 8) :
    sizeToDlc (BitVec.ofNat 8 (dlcToSize d false)) false = d.toNat := by
  rw [sizeToDlc_classic, toNat_ofNat_dlcToSize (by decide), dlcToSize_of_le h, min_eq_left h]

/-- R106 (b): both are the lowest DLC that holds the size. -/
theorem sizeToDlc_dlcToSize_fd {d : Byte} (h : d.toNat ≤ 15) :
    sizeToDlc (BitVec.ofNat 8 (dlcToSize d true)) true = d.toNat := by
  have size := toNat_ofNat_dlcToSize (w := 8) (by decide) d true
  have fits := lowestFit_sizeToDlc (size.trans_le (dlcToSize_le d true))
  rw [size, ← listedSize_eq_dlcToSize] at fits
  rw [← listedSize_eq_dlcToSize]
  exact fits.unique (lowestFit_fdSizes h)

/-- R106 (c), classic. -/
theorem le_dlcToSize_sizeToDlc_classic (n : Byte) :
    min n.toNat 8 ≤ dlcToSize (BitVec.ofNat 8 (sizeToDlc n false)) false := by
  have dlc : (BitVec.ofNat 8 (sizeToDlc n false)).toNat = min n.toNat 8 := toNat_ofNat_sizeToDlc (by decide) n false
  rw [dlcToSize_of_le (dlc.trans_le (min_le_right ..)), dlc]

/-- R106 (c), FD. -/
theorem le_dlcToSize_sizeToDlc_fd {n : Byte} (h : n.toNat ≤ 64) :
    n.toNat ≤ dlcToSize (BitVec.ofNat 8 (sizeToDlc n true)) true := by
  rw [← listedSize_eq_dlcToSize, toNat_ofNat_sizeToDlc (by decide)]
  exact (lowestFit_sizeToDlc h).1

/-- Settles O30: laws (a) to (c) are the lemmas above; (d) and (e) hold because a masked identifier is at most the mask,
so that masking it again keeps it. -/
theorem conversionLaws : Obligations.ConversionLaws := by
  refine ⟨fun _ => sizeToDlc_dlcToSize_classic, fun _ => sizeToDlc_dlcToSize_fd,
    fun n h => ⟨le_dlcToSize_sizeToDlc_classic n, le_dlcToSize_sizeToDlc_fd h⟩, fun id f => ?_,
    fun id f => maskIdentifier_of_le (maskIdentifier_le id f)⟩
  have bound := maskIdentifier_le id f
  unfold idmask at bound
  constructor
  · intro std
    rwa [std] at bound
  · intro ext
    rwa [ext] at bound

/-- Settles O31: masking keeps the remainder by the format's width. -/
theorem maskIdCommandKeepsTheLowBits : Obligations.MaskIdCommandKeepsTheLowBits :=
  fun _ _ _ s => ⟨decode_cmdFields .., fun f =>
    ⟨maskIdentifier s.arg0 f, rfl, maskIdentifier_toNat_eq_mod_idWidth s.arg0 f⟩⟩

end Sys2Proof.Machine

/-! ### The writers of each unit (R120, R170, R200) -/

namespace Sys2Proof.Machine

/-- Settles O22: each effect writes the units of one group of writers, and the table's length outlives every write. -/
theorem onlyTheNamedCommandsWriteEachUnit : Obligations.OnlyTheNamedCommandsWriteEachUnit := by
  intro i s t h
  cases effect_of_exec h with
  | fails | onlyOk | result => exact ⟨fun _ => rfl, fun _ => rfl, fun _ => rfl, fun _ => rfl, fun _ => rfl, rfl⟩
  | frame f writer =>
    exact ⟨fun reader => absurd (writer.symm.trans reader) nofun, fun _ => rfl, fun _ => rfl, fun _ => rfl,
      fun _ => rfl, rfl⟩
  | wire w n buffer count => exact ⟨fun _ => rfl, buffer, count, fun _ => rfl, fun _ => rfl, rfl⟩
  | finit | frel => exact ⟨fun _ => rfl, fun _ => rfl, fun _ => rfl, nofun, nofun, length_clearAll s.mb⟩
  | mbcfg => exact ⟨fun _ => rfl, fun _ => rfl, fun _ => rfl, nofun, fun _ => rfl, List.length_set⟩

end Sys2Proof.Machine

/-! ### The codec does not see the filter (R120, R170) -/

namespace Sys2Proof.Machine

/-- The state with another filter table and another `INIT`. -/
def State.withFilter (m : List Mailbox) (b : Bool) (s : State) : State := { s with mb := m, init := b }

/-- The outcome with its next state changed by `g`. -/
def mapNext (g : State → State) : Result → Result
  | .next t => .next (g t)
  | .fault r => .fault r
  | .refused r => .refused r

/-- Every codec command commutes with a change of the filter: what it checks and what it writes lie outside of it. -/
theorem exec_withFilter {i : Instr} (codec : tableOpcode i < 0x40) (m : List Mailbox) (b : Bool) (s : State) :
    exec i (s.withFilter m b) = mapNext (.withFilter m b) (exec i s) := by
  cases i with
  | nop | frclr | setfmt | getfmt | setid | getid | setdlc | getdlc | getsize | getctl | setts | getsec | getnsec
  | setusr | getusr | setmrk | getmrk | d2s | s2d | mskid | enc | wclr | wpush | getwlen => rfl
  | getflg bit =>
    simp only [exec, execGetflg]
    cases readableBit bit <;> rfl
  | psetb off | pgetb off =>
    simp only [exec, execPsetb, execPgetb]
    cases payloadByteOffset off <;> rfl
  | psetw off | pgetw off =>
    simp only [exec, execPsetw, execPgetw]
    cases payloadWordOffset off <;> rfl
  | wrd off | wwr off =>
    simp only [exec, execWrd, execWwr]
    cases wireOffset off <;> rfl
  | setflg bit val =>
    simp only [exec, execSetflg]
    cases settableFlag bit with
    | none => rfl
    | some g =>
      simp only [apply_ite (mapNext (.withFilter m b))]
      rfl
  | dec =>
    simp only [exec, execDec, apply_ite (mapNext (.withFilter m b))]
    rfl
  | finit | frel | mbcfg | mbrd | matchId | matchf => simp [tableOpcode] at codec

/-- Settles O23: the outcome from the changed state is the changed outcome. -/
theorem codecCommandsIgnoreTheFilterTable : Obligations.CodecCommandsIgnoreTheFilterTable := by
  intro i s m b t codec run
  calc exec i (s.withFilter m b) = mapNext (.withFilter m b) (exec i s) := exec_withFilter codec m b s
    _ = .next (t.withFilter m b) := by rw [run, mapNext]

end Sys2Proof.Machine

/-! ### Frame fields (R121 to R129, R138 to R144, R180) -/

namespace Sys2Proof.Machine

/-- Settles O32: the frame that `FRCLR` writes is `Frame.empty`. -/
theorem frclrEmptiesTheFrame : Obligations.FrclrEmptiesTheFrame :=
  fun _ _ _ _ => ⟨decode_cmdFields .., Frame.empty, rfl, rfl, rfl, rfl, rfl, rfl, rfl, rfl,
    fun k _ => byteAt_replicate k, rfl, rfl, rfl, rfl⟩

/-- R122: a change of format masks the identifier to the new format and clears the flags that are invalid in it. -/
theorem Frame.reformat_eq (fr : Frame) (f : Format) :
    fr.reformat f = { fr with
      fmt := f
      id := maskIdentifier fr.id f
      remote := if f = .fdStd ∨ f = .fdExt then false else fr.remote
      brs := if f = .fdStd ∨ f = .fdExt then fr.brs else false
      esi := if f = .fdStd ∨ f = .fdExt then fr.esi else false } := by
  cases f <;> rfl

/-- R123: a frame that meets I1 to I3 is left as it is by a change to its own format. -/
theorem FrameInv.reformat_self {f : Frame} (h : FrameInv f) : f.reformat f.fmt = f := by
  obtain ⟨id_masked, fd_not_remote, classic_no_brs_esi⟩ := h
  have remote : (!f.fmt.isFd && f.remote) = f.remote := by
    cases fd : f.fmt.isFd with
    | false => rfl
    | true => exact (fd_not_remote fd).symm
  have brs_esi : (f.fmt.isFd && f.brs) = f.brs ∧ (f.fmt.isFd && f.esi) = f.esi := by
    cases fd : f.fmt.isFd with
    | false =>
      obtain ⟨brs, esi⟩ := classic_no_brs_esi fd
      exact ⟨brs.symm, esi.symm⟩
    | true => exact ⟨rfl, rfl⟩
  simp only [Frame.reformat, maskIdentifier_of_le id_masked, remote, brs_esi]

/-- Settles O33: the frame written is the reformatted one, which is the held one when the format is. -/
theorem setfmtReformatsTheFrame : Obligations.SetfmtReformatsTheFrame := by
  refine ⟨fun _ _ _ => decode_cmdFields .., fun f s =>
    ⟨maskIdentifier s.fr.id f, maskIdentifier_toNat_eq_mod_idWidth s.fr.id f, ?_⟩, fun s inv => ?_⟩
  · exact congrArg (fun fr => done (s.setFr fr)) (s.fr.reformat_eq f)
  · exact congrArg (fun fr => done (s.setFr fr)) inv.reformat_self

/-- Settles O34: the format and the two byte fields are zero-extended, the other fields are words. -/
theorem plainGettersReturnTheirField : Obligations.PlainGettersReturnTheirField := by
  intro c b a s
  have zext (x : Byte) : (x.setWidth 32).toNat = x.toNat := BitVec.toNat_setWidth_of_le (by decide)
  refine ⟨⟨decode_cmdFields .., s.fr.fmt.code.setWidth 32, rfl, ?_⟩, ⟨decode_cmdFields .., rfl⟩,
    ⟨decode_cmdFields .., s.fr.dlc.setWidth 32, rfl, zext _⟩, ⟨decode_cmdFields .., rfl⟩, ⟨decode_cmdFields .., rfl⟩,
    ⟨decode_cmdFields .., rfl⟩, ⟨decode_cmdFields .., rfl⟩, ⟨decode_cmdFields .., s.wlen.setWidth 32, rfl, zext _⟩⟩
  cases s.fr.fmt <;> rfl

/-- Settles O35: each setter is one update of the frame register by an unchecked operand. -/
theorem plainSettersStoreTheirOperand : Obligations.PlainSettersStoreTheirOperand :=
  fun _ _ _ _ => ⟨⟨decode_cmdFields .., rfl⟩, ⟨decode_cmdFields .., rfl⟩, ⟨decode_cmdFields .., rfl⟩,
    ⟨decode_cmdFields .., rfl⟩⟩

/-- Settles O36: masking keeps the remainder by the width of the held format. -/
theorem setidStoresTheMaskedIdentifier : Obligations.SetidStoresTheMaskedIdentifier :=
  fun _ _ _ s => ⟨decode_cmdFields .., maskIdentifier s.arg0 s.fr.fmt, rfl,
    maskIdentifier_toNat_eq_mod_idWidth s.arg0 s.fr.fmt⟩

/-- R10: the FD formats. -/
theorem decide_fd_eq_isFd (f : Format) : decide (f = .fdStd ∨ f = .fdExt) = f.isFd := by cases f <;> rfl

/-- Settles O37: the listed size is what `dlcToSize` computes, and it fits in `RES`. -/
theorem getsizeGivesTheListedSize : Obligations.GetsizeGivesTheListedSize := by
  refine fun _ _ _ s => ⟨decode_cmdFields .., BitVec.ofNat 32 s.fr.size, rfl, ?_⟩
  rw [decide_fd_eq_isFd, listedSize_eq_dlcToSize]
  exact toNat_ofNat_dlcToSize (by decide) s.fr.dlc s.fr.fmt.isFd

end Sys2Proof.Machine

/-! ### Writing a flag (R130, R131, R304) -/

namespace Sys2Proof.Machine

/-- R131: the other positions are not settable. -/
theorem settableFlag_eq_none {a : Byte} (other : a.toNat ∉ [2, 3, 6, 7]) : settableFlag a = none := by
  unfold settableFlag
  split
  case h_5 => rfl
  all_goals exact absurd (by decide) other

/-- R131, R304: `SETFLG` at a settable position writes the flag where it is valid; elsewhere the held frame stays. -/
theorem exec_setflg_of_settable {a : Byte} {g : CtlFlag} (settable : settableFlag a = some g) (v : Bool) (s : State) :
    exec (.setflg a v) s = done (s.setFr (if flagValid g s.fr.fmt then s.fr.putFlag g v else s.fr)) := by
  simp only [exec, execSetflg, settable]
  split <;> rfl

/-- R131: `SETFLG` at any other position reports `PARAM`. -/
theorem exec_setflg_of_other {a : Byte} (other : a.toNat ∉ [2, 3, 6, 7]) (v : Bool) (s : State) :
    exec (.setflg a v) s = raise .param s := by
  simp only [exec, execSetflg, settableFlag_eq_none other]

/-- Settles O38: `overrun` is valid in every format, and each of the other flags in the classic or the FD ones. -/
theorem setflgWritesOnlyValidFlags : Obligations.SetflgWritesOnlyValidFlags := by
  refine ⟨fun _ _ _ => decode_cmdFields .., fun v s => ⟨?_, exec_setflg_of_settable (g := .overrun) rfl v s, ?_, ?_,
    fun a other => exec_setflg_of_other other v s⟩⟩
  all_goals
    rw [exec_setflg_of_settable rfl, flagValid]
    cases s.fr.fmt.isFd <;> rfl

end Sys2Proof.Machine

/-! ### Payload access and its offsets (R134 to R137) -/

namespace Sys2Proof.Machine

/-- R134: `PSETB` at a legal offset stores its byte there. -/
theorem exec_psetb_of_legal {a : Byte} (legal : a.toNat < 64) (b : Byte) (s : State) :
    exec (.psetb a b) s = done (s.setFr { s.fr with payload := putByte s.fr.payload a.toNat b }) := by
  simp only [exec, execPsetb, payloadByteOffset_eq_some.2 ⟨rfl, legal⟩]

theorem payloadByteOffset_of_ge {a : Byte} (h : 64 ≤ a.toNat) : payloadByteOffset a = none := if_neg h.not_gt

theorem payloadWordOffset_of_gt {a : Byte} (h : 60 < a.toNat) : payloadWordOffset a = none := if_neg h.not_ge

/-- Settles O40: a legal offset is where the byte is put and read, and the check rejects every other one. -/
theorem payloadByteAccess : Obligations.PayloadByteAccess := by
  refine fun c b a s => ⟨decode_cmdFields .., decode_cmdFields .., fun legal =>
    ⟨⟨putByte s.fr.payload a.toNat b, exec_psetb_of_legal legal b s, fun k => byteAt_putByte _ _ k b legal⟩,
      (byteAt s.fr.payload a.toNat).setWidth 32, exec_pgetb_of_legal legal s,
      BitVec.toNat_setWidth_of_le (by decide)⟩, fun illegal => ?_⟩
  simp only [exec, execPsetb, execPgetb, payloadByteOffset_of_ge illegal]
  exact ⟨rfl, rfl⟩

/-- R66: byte `j` of the word read at an offset is the byte `j` places above it. -/
theorem be32Byte_wordAt {n : Nat} (v : Vector Byte n) (k : Nat) {j : Nat} (hj : j < 4) :
    be32Byte (wordAt v k) j = byteAt v (k + j) := by
  obtain ⟨byte0, byte1, byte2, byte3⟩ :=
    be32Byte_be32 (byteAt v k) (byteAt v (k + 1)) (byteAt v (k + 2)) (byteAt v (k + 3))
  match j with
  | 0 => exact byte0
  | 1 => exact byte1
  | 2 => exact byte2
  | 3 => exact byte3

/-- R66: a word store keeps every byte outside its four offsets. -/
theorem byteAt_putWord_of_outside {n : Nat} (v : Vector Byte n) {k j : Nat} (x : Word) (hk : k + 3 < n)
    (outside : j < k ∨ k + 4 ≤ j) : byteAt (putWord v k x) j = byteAt v j := by
  rw [byteAt_putWord _ _ _ _ hk, if_neg (by omega)]

/-- Settles O41: the bytes of a word stored or read at a legal offset are those of the four offsets from it on. -/
theorem payloadWordAccess : Obligations.PayloadWordAccess := by
  refine fun c b a s => ⟨decode_cmdFields .., decode_cmdFields .., fun legal =>
    ⟨⟨putWord s.fr.payload a.toNat s.arg0, exec_psetw_of_legal legal s, fun j hj => ?_,
      fun k outside => byteAt_putWord_of_outside _ _ (by omega) outside⟩,
      wordAt s.fr.payload a.toNat, exec_pgetw_of_legal legal s, fun j hj => ?_⟩, fun illegal => ?_⟩
  · rw [byteAt_putWord_add _ _ (by omega) hj, be32Byte_toNat_eq_bigEndianByte]
  · rw [← be32Byte_toNat_eq_bigEndianByte, be32Byte_wordAt _ _ hj]
  · simp only [exec, execPsetw, execPgetw, payloadWordOffset_of_gt illegal]
    exact ⟨rfl, rfl⟩

end Sys2Proof.Machine

/-! ### Encoding a frame (R172, R174) -/

namespace Sys2Proof.Machine

theorem serByte_id (f : Frame) {j : Nat} (hj : j < 4) : serByte f j = be32Byte f.id j := if_pos hj

theorem serByte_payload (f : Frame) {k : Nat} (hk : k < 64) :
    serByte f (6 + k) = if k < f.size then byteAt f.payload k else 0 := by
  rw [serByte, if_neg (by omega), if_neg (by omega), if_neg (by omega), if_pos (by omega), Nat.add_sub_cancel_left]

theorem serByte_tsSec (f : Frame) {j : Nat} (hj : j < 4) : serByte f (70 + j) = be32Byte f.tsSec j := by
  match j with
  | 0 | 1 | 2 | 3 => rfl

theorem serByte_tsNsec (f : Frame) {j : Nat} (hj : j < 4) : serByte f (74 + j) = be32Byte f.tsNsec j := by
  match j with
  | 0 | 1 | 2 | 3 => rfl

theorem serByte_user (f : Frame) {j : Nat} (hj : j < 4) : serByte f (78 + j) = be32Byte f.user j := by
  match j with
  | 0 | 1 | 2 | 3 => rfl

theorem serByte_marker (f : Frame) {j : Nat} (hj : j < 4) : serByte f (82 + j) = be32Byte f.marker j := by
  match j with
  | 0 | 1 | 2 | 3 => rfl

theorem serByte_reserved (f : Frame) {k : Nat} (ge : 86 ≤ k) (lt : k < 94) : serByte f k = 0 := by
  rw [serByte]
  iterate 8 rw [if_neg (by omega)]
  exact if_pos lt

/-- R172: `ser` lays the frame out row by row. -/
theorem isImage_ser (f : Frame) : IsImage f (ser f) := by
  have row {k : Nat} (hk : k < 96) {v : Word} {j : Nat} (h : serByte f k = be32Byte v j) :
      (byteAt (ser f) k).toNat = bigEndianByte v j := by
    rw [byteAt_ser f k hk, h, be32Byte_toNat_eq_bigEndianByte]
  constructor
  case id => exact fun k hk => row (by omega) (serByte_id f hk)
  case dlc => exact byteAt_ser f 4 (by decide)
  case control => rw [byteAt_ser f 5 (by decide)]; exact ctl_toNat f
  case payload =>
    intro k hk
    rw [byteAt_ser f _ (by omega), serByte_payload f hk, listedSize_eq_dlcToSize]
    rfl
  case tsSec => exact fun k hk => row (by omega) (serByte_tsSec f hk)
  case tsNsec => exact fun k hk => row (by omega) (serByte_tsNsec f hk)
  case user => exact fun k hk => row (by omega) (serByte_user f hk)
  case marker => exact fun k hk => row (by omega) (serByte_marker f hk)
  case reserved => exact fun k ge lt => (byteAt_ser f k (by omega)).trans (serByte_reserved f ge lt)
  case magic => exact ⟨byteAt_ser f 94 (by decide), byteAt_ser f 95 (by decide)⟩

/-- How a command ends that writes the wire buffer. The buffer is a variable here, so that no proof evaluates it. -/
theorem done_setWb_setWlen (s : State) (w : Vector Byte 96) (n : Byte) :
    done ((s.setWb w).setWlen n) = .next { s with wb := w, wlen := n, code := .ok } := rfl

/-- R174: `ENC` writes the image of the frame and a constant count. -/
theorem exec_enc (s : State) : exec .enc s = .next { s with wb := ser s.fr, wlen := 96, code := .ok } :=
  done_setWb_setWlen s (ser s.fr) 96

/-- Settles O46: the bytes that `ENC` writes are those of `ser`. -/
theorem encWritesTheWireImage : Obligations.EncWritesTheWireImage :=
  fun _ _ _ s => ⟨decode_cmdFields .., ser s.fr, exec_enc s, isImage_ser s.fr⟩

end Sys2Proof.Machine

/-! ### Decoding an image (R173, R175, R182) -/

namespace Sys2Proof.Machine

/-- R175: the length is checked first. -/
theorem exec_dec_of_wlen_ne {s : State} (length : s.wlen.toNat ≠ 96) : exec .dec s = raise .badLength s :=
  if_pos fun h => length (congrArg BitVec.toNat h)

/-- R175: `DEC` of an input of the right length looks at its trailer. -/
theorem exec_dec_of_wlen_eq {s : State} (length : s.wlen.toNat = 96) :
    exec .dec s = if byteAt s.wb 94 ≠ 0xCA ∨ byteAt s.wb 95 ≠ 0x01 then raise .badMagic s
      else done (s.setFr (des s.wb)) :=
  if_neg (not_not_intro (BitVec.eq_of_toNat_eq length))

theorem exec_dec_of_trailer_ne {s : State} (length : s.wlen.toNat = 96)
    (trailer : byteAt s.wb 94 ≠ 0xCA ∨ byteAt s.wb 95 ≠ 0x01) : exec .dec s = raise .badMagic s := by
  rw [exec_dec_of_wlen_eq length, if_pos trailer]

theorem exec_dec_of_trailer_eq {s : State} (length : s.wlen.toNat = 96) (magic0 : byteAt s.wb 94 = 0xCA)
    (magic1 : byteAt s.wb 95 = 0x01) : exec .dec s = done (s.setFr (des s.wb)) := by
  rw [exec_dec_of_wlen_eq length, if_neg (not_or.2 ⟨not_not_intro magic0, not_not_intro magic1⟩)]

/-- R173: `des` reads the image field by field. -/
theorem isDecoded_des (w : Vector Byte 96) : IsDecoded w (des w) := by
  have word (k j : Nat) (hj : j < 4) : bigEndianByte (wordAt w k) j = (byteAt w (k + j)).toNat := by
    rw [← be32Byte_toNat_eq_bigEndianByte, be32Byte_wordAt w k hj]
  constructor
  case format =>
    rw [des, Format.code_ofCode, BitVec.extractLsb'_toNat]
    rfl
  case id => rw [← wordAt_toNat w 0]; exact maskIdentifier_toNat_eq_mod_idWidth ..
  case remote => exact Bool.and_comm ..
  case overrun => rfl
  case brs => exact Bool.and_comm ..
  case esi => exact Bool.and_comm ..
  case dlc => rfl
  case payload =>
    intro k hk
    rw [byteAt_des_payload w k hk, Frame.size, des_isFd, listedSize_eq_dlcToSize]
    rfl
  case tsSec => exact word 70
  case tsNsec => exact word 74
  case user => exact word 78
  case marker => exact word 82

/-- Settles O47: the frame taken is `des` of the wire buffer. -/
theorem decReadsTheWireImage : Obligations.DecReadsTheWireImage :=
  fun _ _ _ s => ⟨decode_cmdFields .., exec_dec_of_wlen_ne, exec_dec_of_trailer_ne,
    fun length magic0 magic1 => ⟨des s.wb, exec_dec_of_trailer_eq length magic0 magic1, isDecoded_des s.wb⟩⟩

/-- Settles O55: both checks give the same answer in the two states, and a `DEC` that passes both reports `OK`. -/
theorem failedDecodeReadsOnlyTheTrailer : Obligations.FailedDecodeReadsOnlyTheTrailer := by
  intro s s' t wlen byte94 byte95 run fails
  by_cases length : s.wlen.toNat = 96
  · rw [exec_dec_of_wlen_eq length] at run
    rw [exec_dec_of_wlen_eq (wlen ▸ length), byte94, byte95]
    split at run
    next trailer =>
      obtain rfl := raise_eq_next.1 run
      exact if_pos trailer
    next =>
      obtain rfl := done_eq_next.1 run
      exact absurd rfl fails
  · rw [exec_dec_of_wlen_ne length] at run
    obtain rfl := raise_eq_next.1 run
    exact exec_dec_of_wlen_ne (wlen ▸ length)

end Sys2Proof.Machine

/-! ### The round trips (R181) -/

namespace Sys2Proof.Machine

/-- R28: the control byte bit by bit. -/
theorem ctl_getLsbD (f : Frame) {i : Nat} (hi : i < 8) : (ctl f).getLsbD i =
    [f.fmt.isExt, f.fmt.isFd, f.remote, f.overrun, false, false, f.brs, f.esi].getD i false := by
  rw [ctl, ctlByte]
  simp only [BitVec.getLsbD_append, BitVec.getLsbD_ofBool]
  match i with
  | 0 | 1 | 2 | 3 | 4 | 5 | 6 | 7 => simp

/-- R10: a format is known by its two bits. -/
theorem format_eq_of_bits {f g : Format} (fd : f.isFd = g.isFd) (ext : f.isExt = g.isExt) : f = g := by
  cases f <;> cases g <;> simp_all [Format.isFd, Format.isExt]

theorem ofCode_ctl (f : Frame) : Format.ofCode ((ctl f).extractLsb' 0 2) = f.fmt :=
  format_eq_of_bits
    (by rw [Format.isFd_ofCode, BitVec.getLsbD_extractLsb']; exact ctl_getLsbD f (i := 1) (by decide))
    (by rw [Format.isExt_ofCode, BitVec.getLsbD_extractLsb']; exact ctl_getLsbD f (i := 0) (by decide))

/-- R9: a word is read where its four bytes stand. -/
theorem wordAt_eq {n : Nat} {w : Vector Byte n} {k : Nat} {v : Word} (h : ∀ j < 4, byteAt w (k + j) = be32Byte v j) :
    wordAt w k = v := by
  have first : byteAt w k = be32Byte v 0 := h 0 (by decide)
  rw [wordAt, first, h 1 (by decide), h 2 (by decide), h 3 (by decide), be32_bytes]

theorem wordAt_ser {f : Frame} {k : Nat} {v : Word} (hk : k + 3 < 96) (h : ∀ j < 4, serByte f (k + j) = be32Byte v j) :
    wordAt (ser f) k = v :=
  wordAt_eq fun j hj => (byteAt_ser f _ (by omega)).trans (h j hj)

/-- R181: up to the payload, decoding the image of a frame is the change of the frame to its own format. -/
theorem des_ser_eq_reformat (f : Frame) :
    des (ser f) = { f.reformat f.fmt with payload := (des (ser f)).payload } := by
  have dlc : byteAt (ser f) 4 = f.dlc := byteAt_ser f 4 (by decide)
  have control : byteAt (ser f) 5 = ctl f := byteAt_ser f 5 (by decide)
  have id : wordAt (ser f) 0 = f.id :=
    wordAt_ser (by decide) fun j hj => by rw [Nat.zero_add, serByte_id f hj]
  have tsSec : wordAt (ser f) 70 = f.tsSec := wordAt_ser (by decide) fun _ => serByte_tsSec f
  have tsNsec : wordAt (ser f) 74 = f.tsNsec := wordAt_ser (by decide) fun _ => serByte_tsNsec f
  have user : wordAt (ser f) 78 = f.user := wordAt_ser (by decide) fun _ => serByte_user f
  have marker : wordAt (ser f) 82 = f.marker := wordAt_ser (by decide) fun _ => serByte_marker f
  simp (disch := decide) only [des, Frame.reformat, dlc, control, id, tsSec, tsNsec, user, marker, ofCode_ctl,
    ctl_getLsbD]
  rfl

/-- R181: a frame that meets I1 to I3 comes back, but for its payload. -/
theorem des_ser {f : Frame} (inv : FrameInv f) : des (ser f) = { f with payload := (des (ser f)).payload } := by
  conv_lhs => rw [des_ser_eq_reformat, inv.reformat_self]

/-- R181: the payload comes back below the size. -/
theorem byteAt_des_ser_payload (f : Frame) {k : Nat} (hk : k < 64) :
    byteAt (des (ser f)).payload k = if k < f.size then byteAt f.payload k else 0 := by
  have size : (des (ser f)).size = f.size := by
    rw [des_ser_eq_reformat, Frame.size_withPayload]
    rfl
  rw [byteAt_des_payload _ _ hk, size, byteAt_ser _ _ (by omega), serByte_payload f hk]
  split <;> rfl

/-- R181: the control byte comes back but for bits 4 and 5 and the flags that are invalid in its format. -/
theorem ctl_des (w : Vector Byte 96) :
    ctl (des w) = byteAt w 5 &&& (if (des w).fmt = .fdStd ∨ (des w).fmt = .fdExt then 0xCB else 0x0F) := by
  have fd := des_isFd w
  have ext : (des w).fmt.isExt = (byteAt w 5).getLsbD 0 := by
    rw [des, Format.isExt_ofCode, BitVec.getLsbD_extractLsb']
    rfl
  have isFd : ((des w).fmt = .fdStd ∨ (des w).fmt = .fdExt) = ((byteAt w 5).getLsbD 1 = true) := by
    rw [← fd, ← decide_fd_eq_isFd, decide_eq_true_eq]
  obtain ⟨-, -, remote, overrun, brs, esi⟩ := isDecoded_des w
  refine BitVec.eq_of_getLsbD_eq fun i hi => ?_
  rw [ctl_getLsbD _ hi, BitVec.getLsbD_and, fd, ext, remote, overrun, brs, esi]
  simp only [isFd]
  generalize byteAt w 5 = c
  match i with
  | 0 | 1 | 2 | 3 | 4 | 5 | 6 | 7 => cases c.getLsbD 1 <;> simp

/-- R181: the four words after the payload come back. -/
theorem serByte_des_words (w : Vector Byte 96) {k : Nat} (ge : 70 ≤ k) (lt : k < 86) :
    serByte (des w) k = byteAt w k := by
  have row (base : Nat) (word : ∀ j < 4, serByte (des w) (base + j) = be32Byte (wordAt w base) j) (ge : base ≤ k)
      (lt : k < base + 4) : serByte (des w) k = byteAt w k := by
    obtain ⟨j, rfl⟩ := Nat.exists_eq_add_of_le ge
    rw [word j (by omega), be32Byte_wordAt w base (by omega)]
  have rows : k < 70 + 4 ∨ (74 ≤ k ∧ k < 74 + 4) ∨ (78 ≤ k ∧ k < 78 + 4) ∨ 82 ≤ k := by omega
  obtain below | ⟨above, below⟩ | ⟨above, below⟩ | above := rows
  · exact row 70 (fun _ => serByte_tsSec (des w)) ge below
  · exact row 74 (fun _ => serByte_tsNsec (des w)) above below
  · exact row 78 (fun _ => serByte_user (des w)) above below
  · exact row 82 (fun _ => serByte_marker (des w)) above lt

/-- R181, first half: `ENC` leaves an input that passes both checks of `DEC`. -/
theorem exec_dec_after_enc {s t : State} (enc : exec .enc s = .next t) :
    exec .dec t = done (t.setFr (des (ser s.fr))) := by
  cases (exec_enc s).symm.trans enc
  obtain ⟨magic0, magic1⟩ := (isImage_ser s.fr).magic
  exact exec_dec_of_trailer_eq rfl magic0 magic1

/-- Settles O50: each half is a row by row comparison of `ser` and `des`. -/
theorem encodeDecodeRoundTrip : Obligations.EncodeDecodeRoundTrip := by
  constructor
  · intro s t inv enc
    refine ⟨_, (des (ser s.fr)).payload, exec_dec_after_enc enc, rfl, des_ser inv, fun k hk => ?_⟩
    rw [listedSize_eq_dlcToSize]
    exact byteAt_des_ser_payload s.fr hk
  · intro s t length magic0 magic1 dec
    rw [exec_dec_of_trailer_eq length magic0 magic1] at dec
    obtain rfl := done_eq_next.1 dec
    have image := isImage_ser (des s.wb)
    have decoded := isDecoded_des s.wb
    obtain ⟨trailer0, trailer1⟩ := image.magic
    refine ⟨_, exec_enc _, rfl, rfl, image.id, image.dlc, (byteAt_ser _ 5 (by decide)).trans (ctl_des s.wb),
      fun k hk => ?_, fun k ge lt => (byteAt_ser _ k (by omega)).trans (serByte_des_words s.wb ge lt), image.reserved,
      trailer0.trans magic0.symm, trailer1.trans magic1.symm⟩
    refine (image.payload k hk).trans ?_
    rw [des_isFd, decoded.dlc, decoded.payload k hk]
    split <;> rfl

end Sys2Proof.Machine

/-! ### The wire buffer byte by byte (R176 to R179, R408) -/

namespace Sys2Proof.Machine

/-- R177: the counter counts to 255. -/
theorem nextCount_toNat (n : Byte) : (nextCount n).toNat = min (n.toNat + 1) 255 :=
  Nat.mod_eq_of_lt (by omega)

/-- R177: `WPUSH` stores its byte at the counter while that lies in the buffer, counts it, and changes nothing else. -/
theorem exec_wpush (b : Byte) (s : State) :
    ∃ w n, exec (.wpush b) s = .next { s with wb := w, wlen := n, code := .ok } ∧
      n.toNat = min (s.wlen.toNat + 1) 255 ∧ ∀ k < 96, byteAt w k = if k = s.wlen.toNat then b else byteAt s.wb k := by
  refine ⟨_, _, rfl, nextCount_toNat s.wlen, fun k hk => ?_⟩
  split
  next inside => exact byteAt_putByte _ _ _ _ inside
  next outside =>
    rw [if_neg (by omega)]
    rfl

/-- Settles O48: the opcodes decode, and `WPUSH` is `exec_wpush`. -/
theorem wirePushAndClear : Obligations.WirePushAndClear :=
  fun _ _ a s => ⟨⟨decode_cmdFields .., rfl⟩, decode_cmdFields .., exec_wpush a s⟩

theorem wireOffset_of_ge {a : Byte} (h : 96 ≤ a.toNat) : wireOffset a = none := if_neg h.not_gt

/-- R178: `WRD` at a legal offset reports the byte there. -/
theorem exec_wrd_of_legal {a : Byte} (legal : a.toNat < 96) (s : State) :
    exec (.wrd a) s = doneWith ((byteAt s.wb a.toNat).setWidth 32) s := by
  simp only [exec, execWrd, wireOffset_eq_some.2 ⟨rfl, legal⟩]

/-- R179: `WWR` at a legal offset stores its byte there. -/
theorem exec_wwr_of_legal {a : Byte} (legal : a.toNat < 96) (b : Byte) (s : State) :
    exec (.wwr a b) s = done (s.setWb (putByte s.wb a.toNat b)) := by
  simp only [exec, execWwr, wireOffset_eq_some.2 ⟨rfl, legal⟩]

/-- Settles O49: a legal offset is where the byte is read and put, and the check rejects every other one. -/
theorem wireByteAccess : Obligations.WireByteAccess := by
  refine fun c b a s => ⟨decode_cmdFields .., decode_cmdFields .., fun legal =>
    ⟨⟨(byteAt s.wb a.toNat).setWidth 32, exec_wrd_of_legal legal s, BitVec.toNat_setWidth_of_le (by decide)⟩,
      putByte s.wb a.toNat b, exec_wwr_of_legal legal b s, fun k => byteAt_putByte _ _ k b legal⟩, fun illegal => ?_⟩
  simp only [exec, execWrd, execWwr, wireOffset_of_ge illegal]
  exact ⟨rfl, rfl⟩

/-- R63, R84: a step on the word of a command runs the command. -/
theorem step_of_pending_encode {s : State} {i : Instr} {rest : List HostAction}
    (h : s.pending = .write .cmd (encode i) :: rest) : step s = exec i (s.setPending rest) :=
  (step_of_pending_cons h).trans (command_of_decode (decode_encode i) _)

theorem step_wpush {s : State} {b : Byte} {rest : List HostAction}
    (h : s.pending = .write .cmd (encode (.wpush b)) :: rest) :
    ∃ w n, step s = .next { s with wb := w, wlen := n, code := .ok, pending := rest } ∧
      n.toNat = min (s.wlen.toNat + 1) 255 ∧ ∀ k < 96, byteAt w k = if k = s.wlen.toNat then b else byteAt s.wb k := by
  obtain ⟨w, n, push, stored⟩ := exec_wpush b (s.setPending rest)
  exact ⟨w, n, (step_of_pending_encode h).trans push, stored⟩

/-- The host's writes of one `WPUSH` per byte. -/
def pushes (bs : List Byte) : List HostAction := bs.map fun b => .write .cmd (encode (.wpush b))

/-- R177: the buffer `w` and the counter `m` after the bytes `bs` were pushed on the buffer `v` with the counter `n`:
the buffer holds the first 96 of all counted bytes. -/
structure Pushed (v : Vector Byte 96) (n : Byte) (bs : List Byte) (w : Vector Byte 96) (m : Byte) : Prop where
  count : m.toNat = min (n.toNat + bs.length) 255
  bytes : ∀ k < 96, byteAt w k = if k < n.toNat then byteAt v k else bs.getD (k - n.toNat) (byteAt v k)

theorem Pushed.nil (v : Vector Byte 96) (n : Byte) : Pushed v n [] v n where
  count := by rw [List.length_nil]; omega
  bytes _ _ := (ite_self _).symm

/-- One more byte in front: it stands at the counter, and the others follow it. -/
theorem Pushed.cons {v v₁ w : Vector Byte 96} {n n₁ m b : Byte} {bs : List Byte}
    (count₁ : n₁.toNat = min (n.toNat + 1) 255)
    (bytes₁ : ∀ k < 96, byteAt v₁ k = if k = n.toNat then b else byteAt v k) (rest : Pushed v₁ n₁ bs w m) :
    Pushed v n (b :: bs) w m where
  count := by rw [rest.count, List.length_cons]; omega
  bytes k hk := by
    rw [rest.bytes k hk, bytes₁ k hk]
    rcases lt_trichotomy k n.toNat with below | rfl | above
    · rw [if_pos below, if_pos (by omega), if_neg below.ne]
    · rw [if_neg (lt_irrefl _), if_pos (by omega), if_pos rfl, Nat.sub_self, List.getD_cons_zero]
    · rw [if_neg (by omega), if_neg above.ne', if_neg (by omega),
        show k - n.toNat = (k - n₁.toNat) + 1 by omega, List.getD_cons_succ]

/-- R177, R408: pushed bytes are appended to those counted before, and everything else stays. -/
theorem run_pushes (bs : List Byte) (s : State) (rest : List HostAction) (ok : s.code = .ok)
    (h : s.pending = pushes bs ++ rest) :
    ∃ w n, Sys2Proof.core.run bs.length s = .next { s with wb := w, wlen := n, code := .ok, pending := rest } ∧
      Pushed s.wb s.wlen bs w n := by
  induction bs generalizing s with
  | nil =>
    refine ⟨s.wb, s.wlen, ?_, .nil s.wb s.wlen⟩
    rw [← ok, ← show s.pending = rest from h]
    rfl
  | cons b bs ih =>
    obtain ⟨w₁, n₁, push, count₁, bytes₁⟩ := step_wpush h
    obtain ⟨w, n, later, pushed⟩ :=
      ih { s with wb := w₁, wlen := n₁, code := .ok, pending := pushes bs ++ rest } rfl rfl
    exact ⟨w, n, (run_succ_of_step push bs.length).trans later, pushed.cons count₁ bytes₁⟩

/-- Settles O52: `WCLR` makes the counter 0, so that the pushed bytes are all that is counted. -/
theorem pushedBytesFillTheWireBuffer : Obligations.PushedBytesFillTheWireBuffer := by
  intro bs s rest h
  obtain ⟨w, n, run, pushed⟩ :=
    run_pushes bs { s with wlen := 0, code := .ok, pending := pushes bs ++ rest } rest rfl rfl
  refine ⟨w, n, (run_succ_of_step (step_of_pending_encode h) bs.length).trans run, ?_, pushed.bytes⟩
  rw [pushed.count]
  exact congrArg (min · 255) (Nat.zero_add _)

/-- A stream of 96 bytes fills the wire buffer, whatever that held before. -/
theorem toList_eq_of_getD {bs : List Byte} {v w : Vector Byte 96} (length : bs.length = 96)
    (h : ∀ k < 96, byteAt w k = bs.getD k (byteAt v k)) : w.toList = bs := by
  refine List.ext_getElem (by simp [length]) fun k hk hk' => ?_
  have := h k (by omega)
  rw [List.getD_eq_getElem _ _ hk', byteAt_eq_getElem _ _ (by omega)] at this
  simpa using this

theorem getElem?_toList_eq_byteAt (w : Vector Byte 96) {k : Nat} (hk : k < 96) : w.toList[k]? = some (byteAt w k) := by
  rw [byteAt_eq_getElem _ _ hk]
  simp [hk]

/-- Settles O53: the stream fills the wire buffer as in O52, and the last step is a `DEC`. -/
theorem byteStreamIsDecodedAsOneInput : Obligations.ByteStreamIsDecodedAsOneInput := by
  intro bs s rest h
  obtain ⟨w, n, push, count, bytes⟩ := pushedBytesFillTheWireBuffer bs s (.write .cmd (encode .dec) :: rest) h
  obtain ⟨t, dec, effect⟩ := exec_effect .dec { s with wb := w, wlen := n, code := .ok, pending := rest }
  obtain ⟨-, -, -, mb, -, -⟩ := onlyTheNamedCommandsWriteEachUnit .dec _ _ dec
  have res := onlyResultCommandsWriteRes _ _ _ dec (.inl rfl)
  have run : Sys2Proof.core.run (bs.length + 2) s = .next t :=
    (run_add_of_run push 1).trans (run_succ_of_step ((step_of_pending_encode rfl).trans dec) 0)
  have right (length : bs.length = 96) : n.toNat = 96 := by omega
  have stream (length : bs.length = 96) : w.toList = bs := toList_eq_of_getD length bytes
  refine ⟨t, run, effect.sameHostSide.pending, mb rfl, res, fun length => ?_, fun length trailer => ?_,
    fun length magic0 magic1 => ?_⟩
  · have wrong : n.toNat ≠ 96 := by omega
    rw [exec_dec_of_wlen_ne wrong] at dec
    obtain rfl := raise_eq_next.1 dec
    exact ⟨rfl, rfl⟩
  · rw [← stream length, getElem?_toList_eq_byteAt w (by decide), getElem?_toList_eq_byteAt w (by decide),
      Option.some_inj, Option.some_inj, not_and_or] at trailer
    rw [exec_dec_of_trailer_ne (right length) trailer] at dec
    obtain rfl := raise_eq_next.1 dec
    exact ⟨rfl, rfl⟩
  · rw [← stream length, getElem?_toList_eq_byteAt w (by decide), Option.some_inj] at magic0 magic1
    rw [exec_dec_of_trailer_eq (right length) magic0 magic1] at dec
    obtain rfl := done_eq_next.1 dec
    exact ⟨rfl, w, stream length, isDecoded_des w⟩

end Sys2Proof.Machine

/-! ### Filter commands before and after `FINIT` (R200 to R202, R305) -/

namespace Sys2Proof.Machine

theorem whenInit_of_init {s : State} (init : s.init = true) (k : Result) : whenInit s k = k := if_pos init

theorem whenInit_of_uninit {s : State} (uninit : s.init = false) (k : Result) : whenInit s k = raise .initMissing s :=
  whenInit_eq_next.2 (.inr ⟨uninit, rfl⟩)

/-- R200: every field of every cleared entry is 0. -/
theorem clearAll_fields {m : List Mailbox} : ∀ e ∈ clearAll m,
    e.valid = false ∧ e.dir = .receive ∧ e.fmt = .classicStd ∧ e.id = 0 ∧ e.mask = 0 := by
  intro e he
  rw [eq_empty_of_mem_clearAll he]
  exact ⟨rfl, rfl, rfl, rfl, rfl⟩

/-- Settles O56: the table written is `clearAll`'s, and `STATUS[16]` shows the `INIT` written beside it. -/
theorem filterTableInitAndRelease : Obligations.FilterTableInitAndRelease :=
  fun _ _ _ s => ⟨decode_cmdFields .., decode_cmdFields .., fun init => execFinit_eq_next.2 (.inl ⟨init, rfl⟩),
    fun uninit => ⟨clearAll s.mb, execFinit_eq_next.2 (.inr ⟨uninit, rfl⟩), length_clearAll s.mb, clearAll_fields,
      statusWord_getLsbD_init _⟩,
    fun uninit => whenInit_of_uninit uninit _,
    fun init => ⟨clearAll s.mb, whenInit_of_init init _, length_clearAll s.mb, clearAll_fields,
      statusWord_getLsbD_init _⟩⟩

end Sys2Proof.Machine

/-! ### Configuring and reading an entry (R203, R204) -/

namespace Sys2Proof.Machine

theorem mailboxIndex_of_lt {s : State} {a : Byte} (h : a.toNat < s.mb.length) : mailboxIndex s a = some a.toNat :=
  if_pos h

theorem mailboxIndex_of_ge {s : State} {a : Byte} (h : s.mb.length ≤ a.toNat) : mailboxIndex s a = none :=
  if_neg h.not_gt

/-- R203: the entry that `MBCFG` writes. -/
def configuredEntry (s : State) (f : Format) (d : Direction) : Mailbox :=
  { valid := true, dir := d, fmt := f, id := maskIdentifier s.arg0 f, mask := s.arg1 }

/-- R203: `MBCFG` at a legal index of an initialised table writes its entry there. -/
theorem exec_mbcfg_of_legal {a : Byte} {s : State} (init : s.init = true) (legal : a.toNat < s.mb.length) (f : Format)
    (d : Direction) :
    exec (.mbcfg a f d) s = done (s.setMb (s.mb.set a.toNat (configuredEntry s f d))) := by
  simp only [exec, execMbcfg, whenInit_of_init init, mailboxIndex_of_lt legal, configuredEntry, operand0, operand1]

/-- R203: `MBCFG` at any other index reports `BUFFER`. -/
theorem exec_mbcfg_of_ge {a : Byte} {s : State} (init : s.init = true) (illegal : s.mb.length ≤ a.toNat) (f : Format)
    (d : Direction) : exec (.mbcfg a f d) s = raise .buffer s := by
  simp only [exec, execMbcfg, whenInit_of_init init, mailboxIndex_of_ge illegal]

/-- Settles O57: the entry written is `configuredEntry`, whose identifier is the remainder by the format's width. -/
theorem mbcfgWritesOneEntry : Obligations.MbcfgWritesOneEntry :=
  ⟨fun _ _ _ => decode_cmdFields .., fun a f d s => ⟨fun uninit => whenInit_of_uninit uninit _,
    fun init illegal => exec_mbcfg_of_ge init illegal f d, fun init legal =>
      ⟨s.mb.set a.toNat (configuredEntry s f d), maskIdentifier s.arg0 f, exec_mbcfg_of_legal init legal f d,
        maskIdentifier_toNat_eq_mod_idWidth s.arg0 f, List.getElem?_set_self legal,
        fun _ other => List.getElem?_set_ne other.symm⟩⟩⟩

/-- R204: how `MBRD` of each selector ends for an entry. -/
def readEntry (e : Mailbox) (s : State) : Selector → Result
  | .id => doneWith e.id s
  | .mask => doneWith e.mask s
  | .ctrl => doneWith e.ctrlWord s
  | .illegal => raise .param s

/-- R204: `MBRD` of an entry of an initialised table. -/
theorem exec_mbrd_of_entry {a : Byte} {s : State} {e : Mailbox} (init : s.init = true)
    (entry : s.mb[a.toNat]? = some e) (x : Selector) : exec (.mbrd a x) s = readEntry e s x := by
  obtain ⟨legal, -⟩ := List.getElem?_eq_some_iff.1 entry
  have held : s.mb.getD a.toNat Mailbox.empty = e := by
    rw [List.getD_eq_getElem?_getD, entry, Option.getD_some]
  simp only [exec, execMbrd, whenInit_of_init init, mailboxIndex_of_lt legal, held]
  cases x <;> rfl

/-- R204: `MBRD` at any other index reports `BUFFER`, whatever the selector is. -/
theorem exec_mbrd_of_ge {a : Byte} {s : State} (init : s.init = true) (illegal : s.mb.length ≤ a.toNat)
    (x : Selector) : exec (.mbrd a x) s = raise .buffer s := by
  simp only [exec, execMbrd, whenInit_of_init init, mailboxIndex_of_ge illegal]

/-- R204: the control view as a number, `valid` at bit 3, the direction at bit 2 and the format below. -/
theorem ctrlWord_toNat (e : Mailbox) :
    e.ctrlWord.toNat = (if e.valid then 8 else 0) + (if e.dir = .transmit then 4 else 0) + e.fmt.code.toNat := by
  unfold Mailbox.ctrlWord
  cases e.valid <;> cases e.dir <;> cases e.fmt <;> rfl

/-- Settles O58: a legal index is where the entry stands, and `readEntry` says what each selector reads of it. -/
theorem mbrdReadsTheSelectedField : Obligations.MbrdReadsTheSelectedField :=
  ⟨fun _ _ _ => decode_cmdFields .., ⟨rfl, rfl, rfl, rfl⟩, fun _ x _ => ⟨fun uninit => whenInit_of_uninit uninit _,
    fun init illegal => exec_mbrd_of_ge init illegal x, fun e init entry =>
      ⟨exec_mbrd_of_entry init entry .id, exec_mbrd_of_entry init entry .mask,
        ⟨e.ctrlWord, exec_mbrd_of_entry init entry .ctrl, ctrlWord_toNat e⟩,
        exec_mbrd_of_entry init entry .illegal⟩⟩⟩

end Sys2Proof.Machine

/-! ### Matching (R205 to R208, R410) -/

namespace Sys2Proof.Machine

/-- R205: the matcher's test is the four conditions of the rule. -/
theorem hits_iff_accepts {e : Mailbox} {rid : Word} {f : Format} {d : Direction} :
    e.hits rid f d = true ↔ Accepts e rid f d := hits_eq_true

theorem hits_eq_false_of_not_accepts {e : Mailbox} {rid : Word} {f : Format} {d : Direction}
    (h : ¬ Accepts e rid f d) : e.hits rid f d = false :=
  Bool.eq_false_of_not_eq_true (mt hits_iff_accepts.1 h)

/-- R205, R206: the word made of the matcher's index is the one the rules describe. -/
theorem isMatchResult_matchWord (m : List Mailbox) (rid : Word) (f : Format) (d : Direction) :
    IsMatchResult m rid f d (matchWord (matchIndex m rid f d)) where
  hit i hi accepts first := by
    have found : matchIndex m rid f d = some i := matchIndex_eq_some.2
      ⟨hi, hits_iff_accepts.2 accepts, fun j hj => hits_eq_false_of_not_accepts (first j hj)⟩
    rw [found, matchWord_some_toNat]
  miss rejects := by
    have missed : matchIndex m rid f d = none :=
      matchIndex_eq_none.2 fun e he => hits_eq_false_of_not_accepts (rejects e he)
    rw [missed, matchWord]

/-- R206: `MATCH` reports the word of the match of `ARG0`. -/
theorem exec_matchId_of_init {s : State} (init : s.init = true) (f : Format) (d : Direction) :
    exec (.matchId f d) s = doneWith (matchWord (matchIndex s.mb s.arg0 f d)) s :=
  whenInit_of_init init _

/-- Settles O59: both commands report `matchWord`, for their own query. -/
theorem matchGivesTheFirstAcceptingEntry : Obligations.MatchGivesTheFirstAcceptingEntry :=
  fun _ _ _ s => ⟨decode_cmdFields .., decode_cmdFields .., fun _ _ uninit => whenInit_of_uninit uninit _,
    fun uninit => whenInit_of_uninit uninit _,
    fun f d init => ⟨_, exec_matchId_of_init init f d, isMatchResult_matchWord s.mb s.arg0 f d⟩,
    fun init => ⟨_, whenInit_of_init init _, isMatchResult_matchWord s.mb s.fr.id s.fr.fmt .receive⟩⟩

/-- R206: in a table of a size that R5 allows, no index but 0 is reported as 0. -/
theorem matchWord_matchIndex_eq_hitZero {m : List Mailbox} (size : m.length ≤ 256) (rid : Word) (f : Format)
    (d : Direction) : matchWord (matchIndex m rid f d) = 0x80000000 ↔ matchIndex m rid f d = some 0 := by
  cases found : matchIndex m rid f d with
  | none => exact iff_of_false (by decide) nofun
  | some i =>
    obtain ⟨inside, -⟩ := matchIndex_eq_some.1 found
    rw [← BitVec.toNat_inj, matchWord_some_toNat, Option.some_inj, show (0x80000000 : Word).toNat = 2 ^ 31 from rfl]
    omega

/-- R205: no entry is below index 0, so that entry 0 is found whenever it accepts. -/
theorem matchIndex_set_zero_eq_some_zero {m : List Mailbox} (pos : 0 < m.length) (e : Mailbox) (rid : Word)
    (f : Format) (d : Direction) : matchIndex (m.set 0 e) rid f d = some 0 ↔ Accepts e rid f d := by
  simp [matchIndex_eq_some, pos, hits_iff_accepts]

/-- R203, R208: `MATCH` after `MBCFG` of entry 0 reports index 0 exactly when that entry accepts the query. -/
theorem exec_matchId_after_mbcfg_zero {s t : State} {f : Format} {d : Direction} (init : s.init = true)
    (pos : 0 < s.mb.length) (size : s.mb.length ≤ 256) (mbcfg : exec (.mbcfg 0 f d) s = .next t) (rid : Word)
    (f' : Format) (d' : Direction) :
    ∃ u, exec (.matchId f' d') { t with arg0 := rid } = .next u ∧ u.code = .ok ∧
      (u.res = 0x80000000 ↔ Accepts (configuredEntry s f d) rid f' d') := by
  obtain ⟨mb, init'⟩ : t.mb = s.mb.set 0 (configuredEntry s f d) ∧ t.init = true := by
    obtain rfl := done_eq_next.1 ((exec_mbcfg_of_legal (a := 0) init pos f d).symm.trans mbcfg)
    exact ⟨rfl, init⟩
  refine ⟨_, exec_matchId_of_init (s := { t with arg0 := rid }) init' f' d', rfl, ?_⟩
  calc matchWord (matchIndex t.mb rid f' d') = 0x80000000
    _ ↔ matchIndex (s.mb.set 0 (configuredEntry s f d)) rid f' d' = some 0 := by
      rw [mb, matchWord_matchIndex_eq_hitZero (List.length_set.trans_le size)]
    _ ↔ Accepts (configuredEntry s f d) rid f' d' := matchIndex_set_zero_eq_some_zero pos _ rid f' d'

/-- R208: with the full mask of its format, an entry accepts the identifiers that agree in the bits of the width. -/
theorem configuredEntry_accepts_iff {s : State} {f : Format} (full_mask : s.arg1 = idmask f) (d : Direction)
    (rid : Word) :
    Accepts (configuredEntry s f d) rid f d ↔ rid.toNat % 2 ^ idWidth f = s.arg0.toNat % 2 ^ idWidth f := by
  calc Accepts (configuredEntry s f d) rid f d
    _ ↔ rid &&& s.arg1 = maskIdentifier s.arg0 f &&& s.arg1 := by simp [Accepts, configuredEntry]
    _ ↔ maskIdentifier rid f = maskIdentifier (maskIdentifier s.arg0 f) f := by rw [full_mask]; rfl
    _ ↔ maskIdentifier rid f = maskIdentifier s.arg0 f := by rw [maskIdentifier_of_le (maskIdentifier_le ..)]
    _ ↔ rid.toNat % 2 ^ idWidth f = s.arg0.toNat % 2 ^ idWidth f := by
      rw [← BitVec.toNat_inj, maskIdentifier_toNat_eq_mod_idWidth, maskIdentifier_toNat_eq_mod_idWidth]

/-- Settles O60: index 0 is reported when the configured entry accepts, which asks for its format. -/
theorem exactFilterAcceptsItsIdentifierOnly : Obligations.ExactFilterAcceptsItsIdentifierOnly := by
  intro s f d t rid init pos size full_mask mbcfg
  constructor
  · obtain ⟨u, run, ok, hit⟩ := exec_matchId_after_mbcfg_zero init pos size mbcfg rid f d
    exact ⟨u, run, ok, hit.trans (configuredEntry_accepts_iff full_mask d rid)⟩
  · intro f' d' other
    obtain ⟨u, run, ok, hit⟩ := exec_matchId_after_mbcfg_zero init pos size mbcfg rid f' d'
    refine ⟨u, run, ok, fun res => ?_⟩
    obtain ⟨-, -, fmt, -⟩ := hit.1 res
    exact other fmt.symm

end Sys2Proof.Machine

/-! ### Control (R230) -/

namespace Sys2Proof.Machine

/-- Settles O27: row 0 of the opcode table is `NOP` whatever the other fields hold, and `NOP` is a bare `done`. -/
theorem nopOnlyReportsOk : Obligations.NopOnlyReportsOk := by
  intro c b a s
  constructor
  · exact decode_cmdFields c b a 0x00
  · exact done_eq_next.2 rfl

end Sys2Proof.Machine

/-! ### Completion codes (R300 to R305) -/

namespace Sys2Proof.Machine

/-- Settles O19: of the effects of a command, only a failure ends with a code other than `OK`, and it writes the code
alone. -/
theorem failedCommandChangesOnlyTheCode : Obligations.FailedCommandChangesOnlyTheCode := by
  intro i s t h error
  cases effect_of_exec h with
  | fails => rfl
  | onlyOk | result | frame | wire | finit | frel | mbcfg => exact absurd rfl error

/-- The outcome is that of a command which completes with the code `c`. -/
def Reports (r : Result) (c : Code) : Prop := ∃ t, r = .next t ∧ t.code = c

theorem reports_done (s : State) : Reports (done s) .ok := ⟨_, rfl, rfl⟩

theorem reports_doneWith (v : Word) (s : State) : Reports (doneWith v s) .ok := ⟨_, rfl, rfl⟩

theorem reports_raise (e : Code) (s : State) : Reports (raise e s) e := ⟨_, rfl, rfl⟩

/-- R305: `INIT_MISSING` comes before every code of the command behind the check. -/
theorem reports_whenInit {s : State} {k : Result} {c : Code} (h : s.init = true → Reports k c) :
    Reports (whenInit s k) (if !s.init then .initMissing else c) := by
  cases init : s.init with
  | false => rw [whenInit_of_uninit init]; exact reports_raise ..
  | true => rw [whenInit_of_init init]; exact h init

/-- R305: the filter commands that check nothing behind `INIT`. -/
theorem reports_whenInit_ok {s : State} {k : Result} (h : Reports k .ok) :
    Reports (whenInit s k) (if s.init then .ok else .initMissing) := by
  simpa only [Bool.not_eq_true', ← Bool.not_eq_true, ite_not] using reports_whenInit fun _ => h

/-! The operand checks let through exactly the well-formed operands. -/

theorem isSome_payloadByteOffset (a : Byte) : (payloadByteOffset a).isSome = decide (a.toNat < 64) := by
  unfold payloadByteOffset
  split <;> simp [*]

theorem isSome_payloadWordOffset (a : Byte) : (payloadWordOffset a).isSome = decide (a.toNat ≤ 60) := by
  unfold payloadWordOffset
  split <;> simp [*]

theorem isSome_wireOffset (a : Byte) : (wireOffset a).isSome = decide (a.toNat < 96) := by
  unfold wireOffset
  split <;> simp [*]

theorem isSome_readableBit (a : Byte) : (readableBit a).isSome = [0, 1, 2, 3, 6, 7].contains a.toNat := by
  rw [readableBit_eq, List.contains_eq_mem]
  split <;> simp [*]

theorem isSome_settableFlag (a : Byte) : (settableFlag a).isSome = [2, 3, 6, 7].contains a.toNat := by
  by_cases settable : a.toNat ∈ [2, 3, 6, 7]
  · simp only [List.mem_cons, List.not_mem_nil, or_false, BitVec.toNat_eq_nat] at settable
    rcases settable with ⟨-, rfl⟩ | ⟨-, rfl⟩ | ⟨-, rfl⟩ | ⟨-, rfl⟩ <;> rfl
  · rw [settableFlag_eq_none settable, List.contains_eq_mem, decide_eq_false settable, Option.isSome_none]

/-- R131, R304: a flag that the format has not is no error. -/
theorem exec_setflg_reports (bit : Byte) (val : Bool) (s : State) :
    Reports (exec (.setflg bit val) s) (reportedCode (.setflg bit val) s) := by
  simp only [reportedCode, Instr.wellFormed, ← isSome_settableFlag]
  cases check : settableFlag bit with
  | none => simp only [exec, execSetflg, check]; exact reports_raise ..
  | some g => rw [exec_setflg_of_settable check]; exact reports_done _

/-- R175: the length is checked before the trailer. -/
theorem exec_dec_reports (s : State) : Reports (exec .dec s) (reportedCode .dec s) := by
  simp only [reportedCode, ← byteAt_eq_getElem]
  split_ifs with length trailer
  · rw [exec_dec_of_wlen_ne length]
    exact reports_raise ..
  · obtain ⟨magic0, magic1⟩ := trailer
    rw [exec_dec_of_trailer_eq (not_not.1 length) magic0 magic1]
    exact reports_done _
  · rw [exec_dec_of_trailer_ne (not_not.1 length) (not_and_or.1 trailer)]
    exact reports_raise ..

/-- R305: `MBCFG` checks its index behind `INIT`. -/
theorem exec_mbcfg_reports (idx : Byte) (fmt : Format) (dir : Direction) (s : State) :
    Reports (exec (.mbcfg idx fmt dir) s) (reportedCode (.mbcfg idx fmt dir) s) := by
  refine reports_whenInit fun _ => ?_
  split_ifs with illegal
  · rw [mailboxIndex_of_ge illegal]; exact reports_raise ..
  · rw [mailboxIndex_of_lt (not_le.1 illegal)]; exact reports_done _

/-- R305: `MBRD` checks its index behind `INIT`, and its selector last. -/
theorem exec_mbrd_reports (idx : Byte) (sel : Selector) (s : State) :
    Reports (exec (.mbrd idx sel) s) (reportedCode (.mbrd idx sel) s) := by
  refine reports_whenInit fun _ => ?_
  split_ifs with illegal selector
  · rw [mailboxIndex_of_ge illegal]; exact reports_raise ..
  · rw [mailboxIndex_of_lt (not_le.1 illegal), selector]; exact reports_raise ..
  · rw [mailboxIndex_of_lt (not_le.1 illegal)]
    cases sel with
    | id | mask | ctrl => exact reports_doneWith ..
    | illegal => exact absurd rfl selector

/-- R301, R305: every command, in the order in which `reportedCode` lists its causes. -/
theorem exec_reports (i : Instr) (s : State) : Reports (exec i s) (reportedCode i s) := by
  cases i with
  | nop | frclr | setfmt | setid | setdlc | setts | setusr | setmrk | enc | wclr | wpush => exact reports_done _
  | getfmt | getid | getdlc | getsize | getctl | getsec | getnsec | getusr | getmrk | d2s | s2d | mskid | getwlen =>
    exact reports_doneWith ..
  | setflg bit val => exact exec_setflg_reports bit val s
  | getflg bit =>
    simp only [exec, execGetflg, reportedCode, Instr.wellFormed, ← isSome_readableBit]
    cases readableBit bit <;> exact ⟨_, rfl, rfl⟩
  | psetb off | pgetb off =>
    simp only [exec, execPsetb, execPgetb, reportedCode, Instr.wellFormed, ← isSome_payloadByteOffset]
    cases payloadByteOffset off <;> exact ⟨_, rfl, rfl⟩
  | psetw off | pgetw off =>
    simp only [exec, execPsetw, execPgetw, reportedCode, Instr.wellFormed, ← isSome_payloadWordOffset]
    cases payloadWordOffset off <;> exact ⟨_, rfl, rfl⟩
  | wrd off | wwr off =>
    simp only [exec, execWrd, execWwr, reportedCode, Instr.wellFormed, ← isSome_wireOffset]
    cases wireOffset off <;> exact ⟨_, rfl, rfl⟩
  | dec => exact exec_dec_reports s
  | finit =>
    simp only [exec, execFinit, reportedCode]
    split
    · exact reports_raise ..
    · exact reports_done _
  | frel => exact reports_whenInit_ok (reports_done _)
  | matchId | matchf => exact reports_whenInit_ok (reports_doneWith ..)
  | mbcfg idx fmt dir => exact exec_mbcfg_reports idx fmt dir s
  | mbrd idx sel => exact exec_mbrd_reports idx sel s

/-- Settles O18: a word that decodes reports the code of its command, any other one `NOT_SUPPORTED`. -/
theorem everyCommandReportsTheFirstCodeThatApplies : Obligations.EveryCommandReportsTheFirstCodeThatApplies :=
  ⟨exec_reports, fun _ s undefined => ⟨_, command_of_undefinedOp undefined s, rfl⟩⟩

end Sys2Proof.Machine

/-! ### The reset input and the software clears (R37, R121, R176, R201, R202, R400, R401) -/

namespace Sys2Proof.Machine

/-- Settles O4: the step leads to `State.resetBlock`, whose entries are all `Mailbox.empty`. -/
theorem resetInputClearsTheWholeBlock : Obligations.ResetInputClearsTheWholeBlock := by
  intro s rest pending
  have status : statusWord (s.setPending rest).resetBlock = 0 := BitVec.eq_of_toNat_eq (statusWord_toNat _)
  refine ⟨(s.setPending rest).resetBlock, step_of_pending_cons pending, rfl, rfl, rfl, status, rfl, rfl, rfl, rfl, rfl,
    rfl, rfl, fun k _ => byteAt_replicate k, rfl, rfl, rfl, rfl, fun k _ => byteAt_replicate k, rfl,
    List.length_replicate, fun e he => ?_, rfl, rfl, rfl⟩
  obtain rfl : e = Mailbox.empty := List.eq_of_mem_replicate he
  exact ⟨rfl, rfl, rfl, rfl, rfl⟩

/-- R201: `FINIT` of a table that is not initialised. -/
theorem exec_finit_of_uninit {s : State} (uninit : s.init = false) :
    exec .finit s = done ((s.setMb (clearAll s.mb)).setInit true) :=
  execFinit_eq_next.2 (.inr ⟨uninit, rfl⟩)

/-- R202: `FREL` of an initialised table. -/
theorem exec_frel_of_init {s : State} (init : s.init = true) :
    exec .frel s = done ((s.setMb (clearAll s.mb)).setInit false) :=
  whenInit_of_init init _

theorem clearAll_eq_replicate (m : List Mailbox) : clearAll m = List.replicate m.length Mailbox.empty :=
  List.map_const' ..

/-- R401: a table that is not initialised is the one after reset. -/
theorem TableInv.mb_eq_replicate {s : State} (h : TableInv s) (uninit : s.init = false) :
    s.mb = List.replicate s.mb.length Mailbox.empty :=
  List.eq_replicate_of_mem (h.uninit_empty uninit)

/-- The state after `FRCLR; WCLR`, which do not touch the filter (R121, R176). -/
def State.clearCodec (s : State) : State := ((s.setFr Frame.empty).setWlen 0).setCode .ok

/-- R401: with the filter table and `INIT` as after reset, what `FRCLR; WCLR` leave is the reset state but for the units
that no clear writes. -/
theorem State.clearCodec_withFilter (s : State) :
    s.clearCodec.withFilter (List.replicate s.mb.length Mailbox.empty) false =
      { s.resetBlock with wb := s.wb, arg0 := s.arg0, arg1 := s.arg1, res := s.res } := rfl

/-- Settles O5: `FREL` gives an initialised table its reset value, and by the invariant any other table has it. -/
theorem softwareClearsComparedWithReset : Obligations.SoftwareClearsComparedWithReset := by
  refine ⟨fun _ => rfl, fun _ => rfl,
    fun s uninit => ⟨clearAll s.mb, exec_finit_of_uninit uninit, length_clearAll _, fun _ => eq_empty_of_mem_clearAll⟩,
    fun s init => ⟨clearAll s.mb, exec_frel_of_init init, length_clearAll _, fun _ => eq_empty_of_mem_clearAll⟩,
    fun s t u inv frclr wclr => ?_⟩
  obtain rfl := done_eq_next.1 frclr
  obtain rfl : u = s.clearCodec := done_eq_next.1 wclr
  rw [← s.clearCodec_withFilter]
  refine ⟨_, ?_, rfl⟩
  split
  next init => rw [← clearAll_eq_replicate]; exact exec_frel_of_init init
  next uninit =>
    have uninit := Bool.eq_false_of_not_eq_true uninit
    rw [← inv.table.mb_eq_replicate uninit, ← uninit]
    rfl

end Sys2Proof.Machine

/-! ### The filter before `FINIT` and right after it (R200, R201, R402) -/

namespace Sys2Proof.Machine

/-- R200: until `FINIT`, `INIT_MISSING` comes first in every other filter command. -/
theorem reportedCode_of_uninit {i : Instr} {s : State} (filter : 0x41 ≤ tableOpcode i) (uninit : s.init = false) :
    reportedCode i s = .initMissing := by
  cases i with
  | frel | mbcfg | mbrd | matchId | matchf => simp only [reportedCode, uninit]; rfl
  | nop | frclr | setfmt | getfmt | setid | getid | setdlc | getdlc | getsize | setflg | getflg | getctl | psetb | pgetb
  | psetw | pgetw | setts | getsec | getnsec | setusr | getusr | setmrk | getmrk | d2s | s2d | mskid | enc | dec | wclr
  | wpush | wrd | wwr | getwlen | finit => exact absurd filter (of_decide_eq_false rfl)

/-- R402: the codes of the codec commands are others. -/
theorem reportedCode_ne_initMissing {i : Instr} (codec : tableOpcode i ≤ 0x36) (s : State) :
    reportedCode i s ≠ .initMissing := by
  cases i with
  | nop | frclr | setfmt | getfmt | setid | getid | setdlc | getdlc | getsize | getctl | setts | getsec | getnsec
  | setusr | getusr | setmrk | getmrk | d2s | s2d | mskid | enc | wclr | wpush | getwlen => exact nofun
  | setflg | getflg | psetb | pgetb | psetw | pgetw | wrd | wwr =>
    rw [reportedCode]
    split <;> exact nofun
  | dec =>
    rw [reportedCode]
    split_ifs <;> exact nofun
  | finit | frel | mbcfg | mbrd | matchId | matchf => exact absurd codec (of_decide_eq_false rfl)

/-- R33: no codec command changes `INIT`. -/
theorem CommandEffect.init_of_codec {s t : State} {i : Instr} (effect : CommandEffect s i t)
    (codec : tableOpcode i ≤ 0x36) : t.init = s.init := by
  by_contra changed
  obtain ⟨rfl, -⟩ | ⟨rfl, -⟩ := effect.finit_or_frel_of_init_ne changed
  all_goals exact absurd codec (by decide)

/-- R301: the code with which a command has completed. -/
theorem code_of_exec {i : Instr} {s t : State} (h : exec i s = .next t) : t.code = reportedCode i s := by
  obtain ⟨u, run, code⟩ := exec_reports i s
  cases h.symm.trans run
  exact code

/-- R205: no entry of a cleared table is valid. -/
theorem matchIndex_clearAll (m : List Mailbox) (rid : Word) (f : Format) (d : Direction) :
    matchIndex (clearAll m) rid f d = none :=
  matchIndex_eq_none.2 fun e he => by rw [eq_empty_of_mem_clearAll he]; rfl

/-- Settles O25: `reportedCode` says which commands report `INIT_MISSING`; after `FINIT` the table is cleared. -/
theorem filterCommandsNeedFinit : Obligations.FilterCommandsNeedFinit := by
  refine ⟨rfl, fun i s t uninit run => ⟨fun filter => ?_, fun codec => ⟨?_, ?_⟩⟩,
    fun s t a f f' d d' uninit finit => ?_⟩
  · have code : t.code = .initMissing := (code_of_exec run).trans (reportedCode_of_uninit filter uninit)
    rw [← code]
    exact failedCommandChangesOnlyTheCode i s t run (by rw [code]; exact nofun)
  · rw [code_of_exec run]
    exact reportedCode_ne_initMissing codec s
  · rw [(effect_of_exec run).init_of_codec codec, uninit]
  · obtain rfl := done_eq_next.1 ((exec_finit_of_uninit uninit).symm.trans finit)
    refine ⟨fun legal => ⟨_, exec_mbcfg_of_legal rfl (legal.trans_eq (length_clearAll s.mb).symm) f d, rfl⟩,
      _, exec_matchId_of_init rfl f' d', rfl, ?_⟩
    exact congrArg matchWord (matchIndex_clearAll s.mb s.arg0 f' d')

end Sys2Proof.Machine

/-! ### The format before the identifier and the flags (R405, R406) -/

namespace Sys2Proof.Machine

/-- R405: masking to one format and then to another keeps the bits of the narrower width. -/
theorem maskIdentifier_maskIdentifier_toNat (id : Word) (f g : Format) :
    (maskIdentifier (maskIdentifier id f) g).toNat = id.toNat % 2 ^ min (idWidth f) (idWidth g) := by
  rw [maskIdentifier_toNat_eq_mod_idWidth, maskIdentifier_toNat_eq_mod_idWidth]
  rcases le_total (idWidth f) (idWidth g) with narrow | wide
  · have below : id.toNat % 2 ^ idWidth f < 2 ^ idWidth g :=
      (Nat.mod_lt _ (Nat.two_pow_pos _)).trans_le (Nat.pow_le_pow_right (by decide) narrow)
    rw [min_eq_left narrow, Nat.mod_eq_of_lt below]
  · rw [min_eq_right wide, Nat.mod_mod_of_dvd _ (Nat.pow_dvd_pow 2 wide)]

/-- Settles O43: the identifier is masked once by `SETID`, and once more by a `SETFMT` after it. -/
theorem formatBeforeIdentifier : Obligations.FormatBeforeIdentifier :=
  fun f s => ⟨⟨_, _, rfl, rfl, maskIdentifier_toNat_eq_mod_idWidth s.arg0 f⟩,
    _, _, rfl, rfl, maskIdentifier_maskIdentifier_toNat s.arg0 s.fr.fmt f⟩

/-- R10: the classic formats. -/
theorem isFd_of_classic {f : Format} (classic : f = .classicStd ∨ f = .classicExt) : f.isFd = false := by
  rcases classic with rfl | rfl <;> rfl

/-- R10: the FD formats. -/
theorem isFd_of_fd {f : Format} (fd : f = .fdStd ∨ f = .fdExt) : f.isFd = true :=
  (decide_fd_eq_isFd f).symm.trans (decide_eq_true fd)

/-- R131: BRS is not stored in a frame of a classic format. -/
theorem exec_setflg_brs_of_classic {s : State} (classic : s.fr.fmt.isFd = false) (v : Bool) :
    exec (.setflg 6 v) s = done s := by
  rw [exec_setflg_of_settable (g := .brs) rfl, flagValid, classic]
  rfl

/-- Settles O44: BRS is written where the held format is FD, and a format change clears what the new format has not. -/
theorem formatBeforeFlags : Obligations.FormatBeforeFlags := by
  refine fun s inv => ⟨⟨_, _, rfl, exec_setflg_of_settable (g := .brs) rfl true _, rfl⟩, fun classic => ?_,
    fun f => ⟨_, rfl, fun classic => ?_, fun fd => ?_, rfl⟩⟩
  · have classic := isFd_of_classic classic
    obtain ⟨brs, -⟩ := inv.classic_no_brs_esi classic
    exact ⟨_, _, exec_setflg_brs_of_classic classic true, rfl, brs⟩
  · exact (FrameInv.reformat s.fr f).classic_no_brs_esi (isFd_of_classic classic)
  · exact (FrameInv.reformat s.fr f).fd_not_remote (isFd_of_fd fd)

end Sys2Proof.Machine

/-! ### The DLC and the payload (R407) -/

namespace Sys2Proof.Machine

/-- The state with another DLC in the frame register. -/
def State.withDlc (s : State) (d : Byte) : State := s.setFr { s.fr with dlc := d }

/-- The state with another payload in the frame register. -/
def State.withPayload (s : State) (p : Vector Byte 64) : State := s.setFr { s.fr with payload := p }

/-- R127: `SETDLC` does not look at the payload. -/
theorem exec_setdlc (d : Byte) (s : State) : exec (.setdlc d) s = done (s.withDlc d) := rfl

/-- R134, R136: a payload write does not look at the DLC. It ends with the same payload and the same code before and
after a `SETDLC`, whether its offset is legal or not. -/
theorem exec_payloadWrite {i : Instr} (write : (∃ a b, i = .psetb a b) ∨ ∃ a, i = .psetw a) (s : State) :
    ∃ p c, exec i s = .next ((s.withPayload p).setCode c) ∧
      ∀ d, exec i ((s.withDlc d).setCode .ok) = .next (((s.withDlc d).withPayload p).setCode c) := by
  obtain ⟨a, b, rfl⟩ | ⟨a, rfl⟩ := write
  · simp only [exec, execPsetb]
    cases payloadByteOffset a with
    | none => exact ⟨s.fr.payload, .param, rfl, fun _ => rfl⟩
    | some k => exact ⟨putByte s.fr.payload k b, .ok, rfl, fun _ => rfl⟩
  · simp only [exec, execPsetw]
    cases payloadWordOffset a with
    | none => exact ⟨s.fr.payload, .param, rfl, fun _ => rfl⟩
    | some k => exact ⟨putWord s.fr.payload k s.arg0, .ok, rfl, fun _ => rfl⟩

/-- R172: the image has 0 at every payload byte at or above the size. -/
theorem byteAt_ser_payload_of_ge (f : Frame) {k : Nat} (hk : k < 64) (above : listedSize f.dlc.toNat f.fmt.isFd ≤ k) :
    byteAt (ser f) (6 + k) = 0 := by
  rw [(isImage_ser f).payload k hk, if_neg above.not_gt]

/-- Settles O45: `SETDLC` and the payload write are updates of two fields, so both orders lead to the same frame. -/
theorem dlcAndPayloadOrderDoesNotMatter : Obligations.DlcAndPayloadOrderDoesNotMatter := by
  intro d i s write
  obtain ⟨p, c, alone, after⟩ := exec_payloadWrite write s
  exact ⟨_, _, _, _, _, _, exec_setdlc d s, after d, exec_enc _, alone, exec_setdlc d _, exec_enc _, rfl, rfl, rfl, rfl,
    rfl, fun k hk above => byteAt_ser_payload_of_ge ((s.withDlc d).withPayload p).fr hk above⟩

end Sys2Proof.Machine

/-! ### The order of the wire-image commands (R408) -/

namespace Sys2Proof.Machine

/-- R408 (a): a push is appended to what was counted. -/
theorem wpush_appends (b : Byte) {s : State} (room : s.wlen.toNat < 96) : ∃ t, exec (.wpush b) s = .next t ∧
    t.wlen.toNat = s.wlen.toNat + 1 ∧ byteAt t.wb s.wlen.toNat = b := by
  obtain ⟨w, n, push, count, bytes⟩ := exec_wpush b s
  exact ⟨_, push, count.trans (by omega), (bytes _ room).trans (if_pos rfl)⟩

/-- R408 (b): `ENC` depends neither on the wire buffer nor on the counter, the only units that a push writes. -/
theorem exec_enc_after_wpush {b : Byte} {s t : State} (push : exec (.wpush b) s = .next t) :
    exec .enc t = exec .enc s := by
  obtain ⟨w, n, run, -⟩ := exec_wpush b s
  cases run.symm.trans push
  rw [exec_enc, exec_enc]

/-- R177: a push on a full buffer is counted and not stored. -/
theorem wpush_on_full {b : Byte} {s t : State} (full : s.wlen = 96) (push : exec (.wpush b) s = .next t) :
    t.wlen = 97 ∧ t.wb = s.wb := by
  obtain ⟨w, n, run, count, bytes⟩ := exec_wpush b s
  cases run.symm.trans push
  rw [full] at count bytes
  exact ⟨BitVec.eq_of_toNat_eq count, byteArray_ext fun k hk => (bytes k hk).trans (if_neg hk.ne)⟩

/-- R408 (e): a second `DEC` finds the same counter and the same bytes, and ends as the first one did. -/
theorem exec_dec_idem {s t : State} (run : exec .dec s = .next t) : exec .dec t = .next t := by
  by_cases length : s.wlen.toNat = 96
  · rw [exec_dec_of_wlen_eq length] at run
    split at run
    next trailer =>
      obtain rfl := raise_eq_next.1 run
      exact exec_dec_of_trailer_ne length trailer
    next trailer =>
      obtain rfl := done_eq_next.1 run
      exact (exec_dec_of_wlen_eq (s := (s.setFr (des s.wb)).setCode .ok) length).trans (if_neg trailer)
  · rw [exec_dec_of_wlen_ne length] at run
    obtain rfl := raise_eq_next.1 run
    exact exec_dec_of_wlen_ne length

/-- Settles O54: `WWR` and `DEC` are no writers of the counter, and `DEC` is none of the wire buffer. -/
theorem wireBufferSequencing : Obligations.WireBufferSequencing := by
  refine ⟨fun b s => wpush_appends b, fun b s t u e push enc enc' => ?_, fun b s t u enc push => ?_,
    fun a b s t wwr => ?_, fun s t dec => ?_⟩
  · rw [exec_enc_after_wpush push] at enc
    cases enc.symm.trans enc'
    rfl
  · cases (exec_enc s).symm.trans enc
    obtain ⟨count, buffer⟩ := wpush_on_full rfl push
    exact ⟨count, buffer, exec_dec_of_wlen_ne (by rw [count]; decide)⟩
  · obtain ⟨-, -, count, -⟩ := onlyTheNamedCommandsWriteEachUnit _ _ _ wwr
    exact count rfl
  · obtain ⟨-, buffer, count, -⟩ := onlyTheNamedCommandsWriteEachUnit _ _ _ dec
    exact ⟨buffer rfl, count rfl, exec_dec_idem dec⟩

end Sys2Proof.Machine
